-- ==== Sys2Proof/Word.lean ====
section
/-! DEFINITION. Sys2Proof/Word.lean: the two value types of the block (00_scope.md rule R10). -/

namespace Sys2Proof

/-- A byte: an unsigned 8-bit integer (R10). -/
abbrev Byte := BitVec 8

/-- A word32: an unsigned 32-bit integer (R10). -/
abbrev Word32 := BitVec 32

end Sys2Proof
end

