-- ==== Sys2Proof/Config.lean ====
section
/-! DEFINITION. Sys2Proof/Config.lean: what is fixed when the block is built (00_scope.md rule R8), the fixed constants
of the protocol, the derived widths, and the inputs the environment drives in one cycle (10_state.md rule R30) with the
free draw that stands for an environment nobody has said anything about. -/

namespace Sys2Proof

/-- The four static parameters (R8, R36). A depth of `none` is the unbounded reading of R9. They are carried in a field of
State that no rule writes (DESIGN CHOICE, log 1). -/
structure Params where
  checkMagic   : Bool
  rxbufDepth   : Option Nat
  respqDepth   : Option Nat
  timeoutTicks : Nat
deriving DecidableEq, Repr

/-- The "Value taken" column of R8. -/
def Params.default : Params :=
  { checkMagic := true, rxbufDepth := some 16, respqDepth := some 4, timeoutTicks := 15000 }

/-- The "Legal values" column of R8: RXBUF_DEPTH >= 9 or unbounded, RESPQ_DEPTH >= 1 or unbounded, TIMEOUT_TICKS >= 1. -/
abbrev Params.Legal (p : Params) : Prop :=
  (∀ d ∈ p.rxbufDepth, 9 ≤ d) ∧ (∀ d ∈ p.respqDepth, 1 ≤ d) ∧ 1 ≤ p.timeoutTicks

namespace Config

/-- FRAME_LEN (R8, R80). -/
abbrev frameLen : Nat := 9

/-- MAGIC, in wire order: A5 AA AA (R8, R84). -/
abbrev magic0 : Byte := 0xA5
abbrev magic1 : Byte := 0xAA
abbrev magic2 : Byte := 0xAA

/-- HS_BYTE and HS_LEN (R8, R88). -/
abbrev hsByte : Byte := 0x1E
abbrev hsLen : Nat := 3

/-- ceil(log2 n), for n >= 1. -/
def ceilLog2 (n : Nat) : Nat := if n ≤ 1 then 0 else Nat.log2 (n - 1) + 1

/-- TIMER_W (R8, decision D23). -/
def timerWidth (p : Params) : Nat := max 1 (ceilLog2 p.timeoutTicks)

/-- RXCNT_W and QCNT_W (R8, decision D23): none where the depth is unbounded, whose count has no bounded width. -/
def countWidth (depth : Option Nat) : Option Nat := depth.map fun d => ceilLog2 (d + 1)

end Config

/-- The inputs of one cycle (R30, without `clk`, as R220 takes them). -/
structure Inputs where
  rst        : Bool
  rxValid    : Bool
  rxByte     : Byte
  txReady    : Bool
  tick       : Bool
  reqValid   : Bool
  reqOp      : BitVec 2
  reqCommand : Byte
  reqData    : Word32
  rspReady   : Bool
deriving DecidableEq, Repr, Inhabited

/-- A cycle in which the environment drives every input to 0. -/
def Inputs.quiet : Inputs :=
  { rst := false, rxValid := false, rxByte := 0, txReady := false, tick := false,
    reqValid := false, reqOp := 0, reqCommand := 0, reqData := 0, rspReady := false }

/-- The free draw of R7 and R220: the inputs of cycle `n` where State lists none. No body: nothing can be proved of a value
of it (log 2). -/
opaque Config.freeInputs : Nat → Inputs

end Sys2Proof
end

