-- ==== Sys2Proof/Syntax.lean ====
section
/-! DEFINITION. Sys2Proof/Syntax.lean: the Frame record and the instructions, one constructor per row of
spec/opcode_table.json. -/

namespace Sys2Proof

/-- A Frame (00_scope.md rule R14): the three magic bytes at wire offsets 0, 1, 2, then command, data and checksum. -/
structure Frame where
  m0       : Byte
  m1       : Byte
  m2       : Byte
  command  : Byte
  data     : Word32
  checksum : Byte
deriving DecidableEq, Repr

/-- ZERO, the all-zero frame (10_state.md rule R26). -/
def Frame.zero : Frame := { m0 := 0, m1 := 0, m2 := 0, command := 0, data := 0, checksum := 0 }

/-- The rows of the opcode table. The first four are the host operations of the request port (30_encoding.md rules R91 to
R93); `frame` is the wire frame the reader's scan step meets at the front of its buffer (R80, R143); `handshake` is the
three bytes 1E 1E 1E of phase HS (R88, R176); the last three are the command byte values the source gives (R85, R87), met as
bytes on RX (R142). What it is to run the last five is log 4. -/
inductive Instr where
  | transact (command : Byte) (data : Word32)
  | poll
  | openPort
  | closePort
  | frame (f : Frame)
  | handshake
  | cmdOk
  | cmdGetState
  | cmdError
deriving DecidableEq, Repr

/-- The four places an encoding of the opcode table is met, with the table's `format` name for each. -/
inductive Format where
  /-- request_word_42: a 42-bit word on the request port. -/
  | request
  /-- wire_frame_72: nine bytes at the front of `rxbuf`. -/
  | frame
  /-- wire_bytes_24: the three bytes sent on TX in phase HS. -/
  | handshake
  /-- command_byte: one byte on RX. -/
  | command
deriving DecidableEq, Repr

/-- The format of each instruction's row. -/
def Instr.format : Instr → Format
  | .transact _ _ => .request
  | .poll => .request
  | .openPort => .request
  | .closePort => .request
  | .frame _ => .frame
  | .handshake => .handshake
  | .cmdOk => .command
  | .cmdGetState => .command
  | .cmdError => .command

/-- An encoded instruction as it stands where the block meets it: a request word, or wire bytes in wire order. -/
inductive Code where
  | request (word : BitVec 42)
  | frame (bytes : List Byte)
  | handshake (bytes : List Byte)
  | command (byte : Byte)
deriving DecidableEq, Repr

/-- Where an encoded instruction stands. -/
def Code.format : Code → Format
  | .request _ => .request
  | .frame _ => .frame
  | .handshake _ => .handshake
  | .command _ => .command

end Sys2Proof
end

