-- ==== Sys2Proof/WellFormed.lean ====
section
/-! DEFINITION. Sys2Proof/WellFormed.lean: which instructions an encoding exists for. Every operand of a host operation is
legal (30_encoding.md rules R86, R93); a frame must be a valid frame (00_scope.md rule R15, 30_encoding.md rules R83, R84). -/

namespace Sys2Proof

/-- R83: the checksum is the exclusive-or of the command byte and the four data bytes. -/
def Frame.checksumRight (f : Frame) : Bool :=
  f.command ^^^ f.data.extractLsb' 0 8 ^^^ f.data.extractLsb' 8 8 ^^^ f.data.extractLsb' 16 8 ^^^ f.data.extractLsb' 24 8
    == f.checksum

/-- R84: the magic is A5 AA AA. -/
def Frame.magicRight (f : Frame) : Bool :=
  f.m0 == Config.magic0 && f.m1 == Config.magic1 && f.m2 == Config.magic2

/-- A frame the block can hold: its checksum is right and, when CHECK_MAGIC = 1, so is its magic (R15 "valid frame"). -/
def Frame.wf (checkMagic : Bool) (f : Frame) : Bool :=
  f.checksumRight && (!checkMagic || f.magicRight)

/-- A well-formed instruction under a value of CHECK_MAGIC. -/
def Instr.wf (checkMagic : Bool) : Instr → Bool
  | .transact _ _ => true
  | .poll => true
  | .openPort => true
  | .closePort => true
  | .frame f => f.wf checkMagic
  | .handshake => true
  | .cmdOk => true
  | .cmdGetState => true
  | .cmdError => true

end Sys2Proof
end

