-- ==== Sys2Proof/Decode.lean ====
section
/-! DEFINITION. Sys2Proof/Decode.lean: the Frame Codec (40_codec.md), the decoder of every format of the opcode table, and
after it the encoder, written from the same tables of 30_encoding.md. -/

namespace Sys2Proof

/-- DecodeError (R14), numbered as R241 numbers it (`DecodeError.code`). -/
inductive DecodeError where
  | invalidSize
  | checksumMismatch
  | badMagic
deriving DecidableEq, Repr

/-- The internal numbers of R241; they appear on no port. -/
def DecodeError.code : DecodeError → Nat
  | .invalidSize => 1
  | .checksumMismatch => 2
  | .badMagic => 3

/-- DecodeResult (R14): `Ok Frame` or `Err DecodeError`. -/
inductive DecodeResult where
  | ok (f : Frame)
  | err (e : DecodeError)
deriving DecidableEq, Repr

/-- Data byte `k`: `data[8k+7 : 8k]` (R63, R82). -/
def dataByte (data : Word32) (k : Nat) : Byte := data.extractLsb' (8 * k) 8

/-- Data assembly of R82, byte 4 of the wire least significant. -/
def assembleData (w4 w5 w6 w7 : Byte) : Word32 :=
  w4.setWidth 32 ||| (w5.setWidth 32 <<< 8) ||| (w6.setWidth 32 <<< 16) ||| (w7.setWidth 32 <<< 24)

/-- CHECKSUM (R120). -/
def checksum (command : Byte) (data : Word32) : Byte :=
  command ^^^ dataByte data 0 ^^^ dataByte data 1 ^^^ dataByte data 2 ^^^ dataByte data 3

/-- ENCODE (R121): always the constant magic, whatever CHECK_MAGIC is (decision D32). -/
def encodeFrame (command : Byte) (data : Word32) : Vector Byte 9 :=
  #v[Config.magic0, Config.magic1, Config.magic2, command,
     dataByte data 0, dataByte data 1, dataByte data 2, dataByte data 3, checksum command data]

/-- The 9 wire bytes of a frame record, by the field offsets of R80 and R81. -/
def wireBytes (f : Frame) : List Byte :=
  [f.m0, f.m1, f.m2, f.command, dataByte f.data 0, dataByte f.data 1, dataByte f.data 2, dataByte f.data 3, f.checksum]

/-- DECODE (R124): length, then checksum, then (when CHECK_MAGIC = 1) magic, in that order (R125). -/
def decodeFrame (checkMagic : Bool) : List Byte → DecodeResult
  | [w0, w1, w2, w3, w4, w5, w6, w7, w8] =>
    if w3 ^^^ w4 ^^^ w5 ^^^ w6 ^^^ w7 ≠ w8 then .err .checksumMismatch
    else if checkMagic = true ∧ (w0, w1, w2) ≠ (Config.magic0, Config.magic1, Config.magic2) then .err .badMagic
    else .ok { m0 := w0, m1 := w1, m2 := w2, command := w3, data := assembleData w4 w5 w6 w7, checksum := w8 }
  | _ => .err .invalidSize

/-! ### Request words (R91 to R93) -/

/-- The operation a request word selects: bits 41:40 the operation, 39:32 the command, 31:0 the data. Total: every one of
the four values of the operation field is an operation (R92, R93). POLL, OPEN and CLOSE ignore the other bits (R91). -/
def decodeRequest (word : BitVec 42) : Instr :=
  let op := word.extractLsb' 40 2
  if op = 0#2 then .transact (word.extractLsb' 32 8) (word.extractLsb' 0 32)
  else if op = 1#2 then .poll
  else if op = 2#2 then .openPort
  else .closePort

/-- The request word of three port values (R91). -/
def packRequest (op : BitVec 2) (command : Byte) (data : Word32) : BitVec 42 := op ++ command ++ data

/-! ### The decoder of the opcode table -/

/-- Why an encoded instruction is rejected. -/
inductive Reject where
  /-- Nine-byte decoding failed, with DECODE's own reason (R124). -/
  | frame (e : DecodeError)
  /-- The three bytes are not 1E 1E 1E (R88). -/
  | notHandshake
  /-- A command byte for which the table has no row: the source gives no name to it (R85). The block itself accepts the byte
  like any other (R86). -/
  | unnamedCommand
deriving DecidableEq, Repr

/-- The command byte values the source gives (R85, R87). -/
def decodeCommand (b : Byte) : Option Instr :=
  if b = 0x00#8 then some .cmdOk
  else if b = 0x03#8 then some .cmdGetState
  else if b = 0xFF#8 then some .cmdError
  else none

/-- The decoder: total on every word and every list of bytes. -/
def decode (checkMagic : Bool) : Code → Except Reject Instr
  | .request word => .ok (decodeRequest word)
  | .frame bytes =>
    match decodeFrame checkMagic bytes with
    | .ok f => .ok (.frame f)
    | .err e => .error (.frame e)
  | .handshake bytes =>
    if bytes = [Config.hsByte, Config.hsByte, Config.hsByte] then .ok .handshake else .error .notHandshake
  | .command b =>
    match decodeCommand b with
    | some i => .ok i
    | none => .error .unnamedCommand

/-- The encoder (R80, R85, R88, R93); the ignored bits of POLL, OPEN and CLOSE are written as zero, the canonical form of
R91. -/
def encode : Instr → Code
  | .transact command data => .request (packRequest 0 command data)
  | .poll => .request (packRequest 1 0 0)
  | .openPort => .request (packRequest 2 0 0)
  | .closePort => .request (packRequest 3 0 0)
  | .frame f => .frame (wireBytes f)
  | .handshake => .handshake [Config.hsByte, Config.hsByte, Config.hsByte]
  | .cmdOk => .command 0x00
  | .cmdGetState => .command 0x03
  | .cmdError => .command 0xFF

/-! ### The table's words -/

/-- The `n` bytes of a number written most significant byte first: the wire order of a pattern read as one number (log 7). -/
def bytesOfPattern : Nat → Nat → List Byte
  | 0, _ => []
  | n + 1, w => BitVec.ofNat 8 (w >>> (8 * n)) :: bytesOfPattern n w

/-- The encoded instruction a table word of `nbits` bits stands for: the table's formats have 8, 24, 42 and 72 bits, and the
word is read in the smallest that holds `nbits` of its bits (log 7). A number too large for its format is no word of it. -/
def tableCode (nbits w : Nat) : Option Code :=
  if nbits ≤ 8 then (if w < 2 ^ 8 then some (.command (BitVec.ofNat 8 w)) else none)
  else if nbits ≤ 24 then (if w < 2 ^ 24 then some (.handshake (bytesOfPattern 3 w)) else none)
  else if nbits ≤ 48 then (if w < 2 ^ 42 then some (.request (BitVec.ofNat 42 w)) else none)
  else if nbits ≤ 72 then (if w < 2 ^ 72 then some (.frame (bytesOfPattern 9 w)) else none)
  else none

/-- What the decoder reads from a table word, with the default CHECK_MAGIC = 1 (R8). -/
def decodeTableWord (nbits w : Nat) : Option Instr :=
  match tableCode nbits w with
  | none => none
  | some c =>
    match decode Params.default.checkMagic c with
    | .ok i => some i
    | .error _ => none

end Sys2Proof
end

