-- ==== Sys2Proof/Machine/State.lean ====
section
/-! DEFINITION. Sys2Proof/Machine/State.lean: the state record of 10_state.md rule R20, the reset state of rule R37, and the
reasons a step can stop. -/

namespace Sys2Proof.Machine

/-- The transactor's control state (R21). The encodings 5, 6 and 7 do not exist, as R21 asks. -/
inductive Phase where
  /-- ready for a host operation -/
  | idle
  /-- transmitting the 3 handshake bytes after OPEN -/
  | hs
  /-- transmitting the 9 bytes of a TRANSACT frame -/
  | tx
  /-- waiting for a response or the timeout -/
  | wait
  /-- holding a result on the response port -/
  | resp
deriving DecidableEq, Repr

/-- The encoding of R21. -/
def Phase.code : Phase → BitVec 3
  | .idle => 0
  | .hs => 1
  | .tx => 2
  | .wait => 3
  | .resp => 4

/-- The response status (30_encoding.md rule R95): exactly six values (R96). -/
inductive Status where
  | frame
  | timeout
  | empty
  | done
  | notOpen
  | illegal
deriving DecidableEq, Repr

/-- The status codes of R95. -/
def Status.code : Status → BitVec 3
  | .frame => 0
  | .timeout => 1
  | .empty => 2
  | .done => 3
  | .notOpen => 4
  | .illegal => 5

/-- What stops the machine. The block has no traps (60_exceptions.md rule R248): the one stuck case is the spec's own. -/
inductive Fault where
  /-- A cycle with rst = 0 before the first clock edge with rst = 1. Raised by `step` alone, from a state whose `wasReset` is
  false: "treats it as stuck: no step is defined" (70_reset_and_hazards.md rule R272, 10_state.md rule R38). Safe: the model
  stops where the hardware's behaviour is unspecified (log 3). -/
  | unreset
deriving DecidableEq, Repr

/-- What the model has no meaning for. -/
inductive Refusal where
  /-- An instruction without a meaning, by its mnemonic. No arm of `exec` raises it: every row of the opcode table is
  modelled. Safe. -/
  | notModelled (mnemonic : String)
deriving DecidableEq, Repr

/-- The state (R20), one field per row of its table under the spec's own name; then the static parameters (R8, R36), and
three fields of the model's own: what the environment drives (log 2), and whether the block has ever been reset (log 3). -/
structure State where
  /-- transport open; the reader runs only when true (R22) -/
  opened    : Bool
  /-- transactor control state (R21) -/
  phase     : Phase
  /-- the encoded frame being transmitted (R23) -/
  txbuf     : Vector Byte 9
  /-- index of the byte offered on TX, 0..8 (R24) -/
  txidx     : Fin 9
  /-- ticks counted in WAIT (R25) -/
  timer     : Nat
  /-- status of the last completed operation (R26) -/
  rspStatus : Status
  /-- frame of the last completed operation (R26) -/
  rspFrame  : Frame
  /-- received bytes not yet consumed, oldest first (R27) -/
  rxbuf     : List Byte
  /-- published frames not yet taken, oldest first (R28) -/
  respq     : List Frame
  /-- the static parameters (R8), written by no rule (R36) -/
  params    : Params
  /-- MODEL: the inputs of the coming cycles, oldest first (R7, R220, log 2) -/
  env       : List Inputs
  /-- MODEL: cycles since the run's start; the index of the free draw (log 2) -/
  cycle     : Nat
  /-- MODEL: a clock edge with rst = 1 has been seen (R38, R272, log 3) -/
  wasReset  : Bool
deriving DecidableEq, Repr

/-- The reset state (R37) of a block built with the parameters `p`, before an environment that drives `env` from cycle
`cycle` on. -/
def State.resetWith (p : Params) (env : List Inputs) (cycle : Nat) : State :=
  { opened := false
    phase := .idle
    txbuf := #v[0, 0, 0, 0, 0, 0, 0, 0, 0]
    txidx := 0
    timer := 0
    rspStatus := .frame
    rspFrame := Frame.zero
    rxbuf := []
    respq := []
    params := p
    env := env
    cycle := cycle
    wasReset := true }

/-- The machine right after reset (R37), with the parameters' defaults (R8) and nothing said about the environment. -/
def State.reset : State := State.resetWith Params.default [] 0

end Sys2Proof.Machine
end

