-- ==== Sys2Proof/Machine/Flags.lean ====
section
/-! DEFINITION. Sys2Proof/Machine/Flags.lean: the outputs of the block. It has no condition codes; its status flags are
outputs, functions of the state (10_state.md rules R31, R32, R35), with the reset override of 70_reset_and_hazards.md rule
R271. -/

namespace Sys2Proof.Machine

/-- Room for one more element in a buffer holding `n`, under a depth that may be unbounded (R8, R9). -/
def hasRoom (depth : Option Nat) (n : Nat) : Bool :=
  match depth with
  | none => true
  | some d => decide (n < d)

/-- `rx_ready` with rst = 0 (R32, R141): closed, or room in `rxbuf`. -/
def rxReady (s : State) : Bool := !s.opened || hasRoom s.params.rxbufDepth s.rxbuf.length

/-- `tx_valid` with rst = 0 (R32). -/
def txValid (s : State) : Bool := s.phase == .hs || s.phase == .tx

/-- `tx_byte` (R32). -/
def txByte (s : State) : Byte :=
  match s.phase with
  | .hs => Config.hsByte
  | .tx => s.txbuf[s.txidx]
  | .idle => 0x00
  | .wait => 0x00
  | .resp => 0x00

/-- `req_ready` with rst = 0 (R32). -/
def reqReady (s : State) : Bool := s.phase == .idle

/-- `rsp_valid` with rst = 0 (R32). -/
def rspValid (s : State) : Bool := s.phase == .resp

/-- `rsp_magic` (R31, R64): wire byte 0 in bits 7:0, byte 1 in 15:8, byte 2 in 23:16. -/
def packMagic (f : Frame) : BitVec 24 := f.m2 ++ f.m1 ++ f.m0

/-- The outputs of one cycle (R31). -/
structure Outputs where
  rxReady      : Bool
  txValid      : Bool
  txByte       : Byte
  reqReady     : Bool
  rspValid     : Bool
  rspStatus    : BitVec 3
  rspMagic     : BitVec 24
  rspCommand   : Byte
  rspData      : Word32
  rspChecksum  : Byte
  stOpened     : Bool
  stBusy       : Bool
  stRxCount    : Nat
  stRespqCount : Nat
deriving DecidableEq, Repr

/-- `out : State × rst → Outputs` (R32, R220). rst = 1 forces the four handshake outputs to 0 (R271); the others show the
same function of the state in such a cycle, which no rule reads (log 10). DESIGN CHOICE: so do all outputs of a block never reset,
which R272 leaves unspecified (log 13). -/
def outputs (s : State) (rst : Bool) : Outputs :=
  { rxReady := !rst && rxReady s
    txValid := !rst && txValid s
    txByte := txByte s
    reqReady := !rst && reqReady s
    rspValid := !rst && rspValid s
    rspStatus := s.rspStatus.code
    rspMagic := packMagic s.rspFrame
    rspCommand := s.rspFrame.command
    rspData := s.rspFrame.data
    rspChecksum := s.rspFrame.checksum
    stOpened := s.opened
    stBusy := s.phase != .idle
    stRxCount := s.rxbuf.length
    stRespqCount := s.respq.length }

/-- The 75-bit response word of 30_encoding.md rule R94: status, magic, command, data, checksum, from the top. -/
def responseWord (s : State) : BitVec 75 :=
  s.rspStatus.code ++ packMagic s.rspFrame ++ s.rspFrame.command ++ s.rspFrame.data ++ s.rspFrame.checksum

end Sys2Proof.Machine
end

