-- ==== Sys2Proof/Machine/Operands.lean ====
section
/-! DEFINITION. Sys2Proof/Machine/Operands.lean: what a cycle reads: its inputs, the transfers it makes (43_cycle.md rule
R221), the request word on the port, and the reader's window. -/

namespace Sys2Proof.Machine

/-- The inputs of the coming cycle: the oldest the environment lists, or the free draw (R7, R220, log 2). -/
def inputOf (s : State) : Inputs :=
  match s.env with
  | [] => Config.freeInputs s.cycle
  | inp :: _ => inp

/-- The request word on the port (30_encoding.md rule R91). -/
def requestWord (inp : Inputs) : BitVec 42 := packRequest inp.reqOp inp.reqCommand inp.reqData

/-- The byte the byte source offers on RX, if any (R30). -/
def rxOffer (inp : Inputs) : Option Byte := if inp.rxValid then some inp.rxByte else none

/-- The window: the first 9 bytes of `rxbuf` (00_scope.md rule R15). -/
def window (s : State) : List Byte := s.rxbuf.take Config.frameLen

/-! ### The transfers of a cycle with rst = 0 (R221) -/

/-- `tx_fire`. -/
def txFire (s : State) (inp : Inputs) : Bool := txValid s && inp.txReady

/-- `req_fire` (R170). -/
def reqFire (s : State) (inp : Inputs) : Bool := inp.reqValid && reqReady s

/-- `rsp_fire`. -/
def rspFire (s : State) (inp : Inputs) : Bool := rspValid s && inp.rspReady

/-- The byte appended to `rxbuf` in this cycle when `offer` stands on RX: one that is transferred while the transport is open
(R142). A byte transferred while closed is discarded (R145); a byte offered while `rx_ready = 0` is not transferred (R141). -/
def rxAppend (s : State) (offer : Option Byte) : List Byte :=
  if rxReady s && s.opened then offer.toList else []

end Sys2Proof.Machine
end

