-- ==== Sys2Proof/Machine/Ops.lean ====
section
/-! DEFINITION. Sys2Proof/Machine/Ops.lean: the operations every cycle is made of: the queue primitives (00_scope.md rule
R13), the transactor's next control state, completing an operation and returning from it (42_transactor.md), and the clock edge
that puts the parts of one cycle together (43_cycle.md rule R221, part 3). -/

namespace Sys2Proof.Machine

/-- `push(q, f)` (R13). -/
def push (q : List Frame) (f : Frame) : List Frame := q ++ [f]

/-- `pop(q)` (R13). -/
def pop (q : List Frame) : List Frame := q.drop 1

/-- What the reader's scan step leaves: `rxbuf_after_scan` and `publish` (41_reader.md rule R143). -/
structure Scan where
  rxbuf   : List Byte
  publish : Option Frame
deriving DecidableEq, Repr

/-- The transactor's step: the control fields CTL alone writes, and its two signals to the queues (R221). -/
structure Ctl where
  opened    : Bool
  phase     : Phase
  txbuf     : Vector Byte 9
  txidx     : Fin 9
  timer     : Nat
  rspStatus : Status
  rspFrame  : Frame
  pop       : Bool
  clear     : Bool
deriving DecidableEq, Repr

/-- "Unlisted fields keep their value; pop and clear are false unless listed" (R222). -/
def ctlKeep (s : State) : Ctl :=
  { opened := s.opened, phase := s.phase, txbuf := s.txbuf, txidx := s.txidx, timer := s.timer,
    rspStatus := s.rspStatus, rspFrame := s.rspFrame, pop := false, clear := false }

/-- `finish(st, f)` (42_transactor.md, notation). Completing with an error status is all an error does in this block: it
saves its status code and frame and nothing else (60_exceptions.md rule R248). -/
def finish (st : Status) (f : Frame) (c : Ctl) : Ctl :=
  { c with rspStatus := st, rspFrame := f, phase := .resp }

/-- RESP (R181), which is also the return from an error (R248): back to IDLE when the host takes the response. -/
def ctlResp (s : State) (inp : Inputs) : Ctl :=
  if rspFire s inp then { ctlKeep s with phase := .idle } else ctlKeep s

/-- The clock edge of a cycle with rst = 0: the control fields from the transactor, the queues from R221 part 3, and the
environment moved on by one cycle. `offer` is the byte on RX. CLOSE's `clear` overrides the publish and the append. -/
def edge (s : State) (offer : Option Byte) (sc : Scan) (c : Ctl) : State :=
  { s with
    opened := c.opened
    phase := c.phase
    txbuf := c.txbuf
    txidx := c.txidx
    timer := c.timer
    rspStatus := c.rspStatus
    rspFrame := c.rspFrame
    rxbuf := if c.clear then [] else sc.rxbuf ++ rxAppend s offer
    respq := if c.clear then []
             else (match sc.publish with
                   | none => if c.pop then pop s.respq else s.respq
                   | some f => push (if c.pop then pop s.respq else s.respq) f)
    env := s.env.tail
    cycle := s.cycle + 1 }

/-- The clock edge of a cycle with rst = 1 (R270): the reset state, whatever the state and the other inputs are; the static
parameters stay (R36). -/
def resetEdge (s : State) : State := State.resetWith s.params s.env.tail (s.cycle + 1)

end Sys2Proof.Machine
end

