-- ==== Sys2Proof/Machine/Reader.lean ====
section
/-! DEFINITION. Sys2Proof/Machine/Reader.lean: the Resynchronizing Reader (41_reader.md): the scan step, and the source's loop
run to completion. -/

namespace Sys2Proof.Machine

/-- The scan step changed nothing: the reader is inactive (R140), has fewer than 9 bytes (R143), or holds (R144). -/
def scanNothing (s : State) : Scan := { rxbuf := s.rxbuf, publish := none }

/-- The scan step on a window that decodes to `f` (R143), with the hold of R144 when `respq` is full at the start of the
cycle. -/
def scanFrame (s : State) (f : Frame) : Scan :=
  if hasRoom s.params.respqDepth s.respq.length then { rxbuf := s.rxbuf.drop Config.frameLen, publish := some f }
  else scanNothing s

/-- The scan step on a window that does not decode: drop exactly one byte (R143). -/
def scanDrop (s : State) : Scan := { rxbuf := s.rxbuf.drop 1, publish := none }

/-- SCAN (R143), in a cycle where the reader is active only when open (R140). -/
def readerScan (s : State) : Scan :=
  if s.opened = true ∧ Config.frameLen ≤ s.rxbuf.length then
    match decodeFrame s.params.checkMagic (window s) with
    | .ok f => scanFrame s f
    | .err _ => scanDrop s
  else scanNothing s

/-- RESYNC of R147 on a list whose length is at most the first argument: every step takes at least one byte. -/
def resyncFuel (checkMagic : Bool) : Nat → List Byte → List Frame × List Byte
  | 0, l => ([], l)
  | n + 1, l =>
    if l.length < Config.frameLen then ([], l)
    else
      match decodeFrame checkMagic (l.take Config.frameLen) with
      | .ok f => (f :: (resyncFuel checkMagic n (l.drop Config.frameLen)).1, (resyncFuel checkMagic n (l.drop Config.frameLen)).2)
      | .err _ => resyncFuel checkMagic n (l.drop 1)

/-- RESYNC (R147): the source's loop run to completion on a byte list, giving the frames and the bytes left over. -/
def resync (checkMagic : Bool) (l : List Byte) : List Frame × List Byte := resyncFuel checkMagic l.length l

end Sys2Proof.Machine
end

