-- ==== Sys2Proof/Machine/Channel.lean ====
section
/-! DEFINITION. Sys2Proof/Machine/Channel.lean: the Request/Response Channel (42_transactor.md), that is the transactor's step
CTL with every row of the table of 43_cycle.md rule R222. -/

namespace Sys2Proof.Machine

/-! ### Accepting an operation, in IDLE (R172 to R175) -/

/-- TRANSACT accepted (R172): the operands are encoded and captured in this cycle (decision D30). -/
def ctlTransact (s : State) (command : Byte) (data : Word32) : Ctl :=
  if s.opened then { ctlKeep s with txbuf := encodeFrame command data, txidx := 0, phase := .tx }
  else finish .notOpen Frame.zero (ctlKeep s)

/-- POLL accepted (R173): it sees `respq` as it stood at the start of the cycle. -/
def ctlPoll (s : State) : Ctl :=
  if s.opened then
    match s.respq with
    | [] => finish .empty Frame.zero (ctlKeep s)
    | f :: _ => finish .frame f { ctlKeep s with pop := true }
  else finish .notOpen Frame.zero (ctlKeep s)

/-- OPEN accepted (R174); while open it completes with ILLEGAL and changes nothing else (60_exceptions.md rule R245). -/
def ctlOpen (s : State) : Ctl :=
  if s.opened then finish .illegal Frame.zero (ctlKeep s)
  else { ctlKeep s with opened := true, txidx := 0, phase := .hs }

/-- CLOSE accepted (R175): idempotent; while open it clears both queues. -/
def ctlClose (s : State) : Ctl :=
  if s.opened then finish .done Frame.zero { ctlKeep s with opened := false, clear := true }
  else finish .done Frame.zero (ctlKeep s)

/-! ### Phase steps (R176 to R182) -/

/-- HS (R176): one handshake byte is transferred in each cycle the sink is ready; DONE with the third. -/
def ctlHs (s : State) (inp : Inputs) : Ctl :=
  if txFire s inp then
    if s.txidx = 2 then finish .done Frame.zero { ctlKeep s with txidx := 0 }
    else { ctlKeep s with txidx := s.txidx + 1 }
  else ctlKeep s

/-- TX (R177): the nine bytes in order; WAIT begins after the ninth. -/
def ctlTx (s : State) (inp : Inputs) : Ctl :=
  if txFire s inp then
    if s.txidx = 8 then { ctlKeep s with txidx := 0, timer := 0, phase := .wait }
    else { ctlKeep s with txidx := s.txidx + 1 }
  else ctlKeep s

/-- WAIT (R178 to R180): a queued frame beats the tick; the tick that makes the count TIMEOUT_TICKS ends the wait. -/
def ctlWait (s : State) (inp : Inputs) : Ctl :=
  match s.respq with
  | f :: _ => finish .frame f { ctlKeep s with pop := true, timer := 0 }
  | [] =>
    if inp.tick then
      if s.timer + 1 = s.params.timeoutTicks then finish .timeout Frame.zero { ctlKeep s with timer := 0 }
      else { ctlKeep s with timer := s.timer + 1 }
    else ctlKeep s

/-- The transactor's step in a cycle that accepts no operation. -/
def ctlPhase (s : State) (inp : Inputs) : Ctl :=
  match s.phase with
  | .idle => ctlKeep s
  | .hs => ctlHs s inp
  | .tx => ctlTx s inp
  | .wait => ctlWait s inp
  | .resp => ctlResp s inp

/-- An operation offered on the request port (R170): accepted in IDLE, where `accepted` is its effect; in any other phase it has
no effect and the transactor's phase step runs. -/
def offered (s : State) (inp : Inputs) (accepted : Ctl) : Ctl :=
  if reqReady s then accepted else ctlPhase s inp

/-- The effect of the operation of a request word, accepted in this cycle. Only the four host operations are ever decoded from
a request word (30_encoding.md rule R93); the other rows of the opcode table are no operations of this port. -/
def acceptOp (s : State) (inp : Inputs) : Instr → Ctl
  | .transact command data => ctlTransact s command data
  | .poll => ctlPoll s
  | .openPort => ctlOpen s
  | .closePort => ctlClose s
  | .frame _ => ctlPhase s inp
  | .handshake => ctlPhase s inp
  | .cmdOk => ctlPhase s inp
  | .cmdGetState => ctlPhase s inp
  | .cmdError => ctlPhase s inp

/-- CTL (R222). -/
def ctl (s : State) (inp : Inputs) : Ctl :=
  if reqFire s inp then acceptOp s inp (decodeRequest (requestWord inp)) else ctlPhase s inp

/-! ### The whole cycle -/

/-- A whole clock cycle with rst = 0 (R221): scan, transactor, queues. -/
def clockCycle (s : State) : State :=
  edge s (rxOffer (inputOf s)) (readerScan s) (ctl s (inputOf s))

/-- A clock cycle in which the transactor's state does not change (R180, R182): the reader's part alone. -/
def quietCycle (s : State) : State :=
  edge s (rxOffer (inputOf s)) (readerScan s) (ctlKeep s)

end Sys2Proof.Machine
end

