-- ==== Sys2Proof/Machine/Requests.lean ====
section
/-! DEFINITION. Sys2Proof/Machine/Requests.lean: the meanings of the four host operations (42_transactor.md rules R172 to R175).
Each is the clock cycle, with rst = 0, in which the host offers that operation's request word: the reader scans, the operation is
accepted if the phase is IDLE (R170), and the queues are updated (43_cycle.md rule R221). The cycles that follow an acceptance
(handshake, transmission, wait, response) are steps of their own. -/

namespace Sys2Proof.Machine

/-- TRANSACT (R172). -/
def execTransact (command : Byte) (data : Word32) (s : State) : Host.Outcome State Fault Refusal :=
  .next (edge s (rxOffer (inputOf s)) (readerScan s) (offered s (inputOf s) (ctlTransact s command data)))

/-- POLL (R173). -/
def execPoll (s : State) : Host.Outcome State Fault Refusal :=
  .next (edge s (rxOffer (inputOf s)) (readerScan s) (offered s (inputOf s) (ctlPoll s)))

/-- OPEN (R174). -/
def execOpen (s : State) : Host.Outcome State Fault Refusal :=
  .next (edge s (rxOffer (inputOf s)) (readerScan s) (offered s (inputOf s) (ctlOpen s)))

/-- CLOSE (R175). -/
def execClose (s : State) : Host.Outcome State Fault Refusal :=
  .next (edge s (rxOffer (inputOf s)) (readerScan s) (offered s (inputOf s) (ctlClose s)))

end Sys2Proof.Machine
end

