-- ==== Sys2Proof/Machine/Wire.lean ====
section
/-! DEFINITION. Sys2Proof/Machine/Wire.lean: the meanings of the rows of the opcode table that travel on the byte channel (log 4).
Each is a whole clock cycle with rst = 0 (43_cycle.md rule R221) in which the block meets that encoding. -/

namespace Sys2Proof.Machine

/-- FRAME: the cycle in which the reader's window decodes to `f` (41_reader.md rule R143): while open it is published and its nine
bytes dropped if `respq` has room, and held otherwise (R144). While closed the reader does nothing (R140). -/
def execFrame (f : Frame) (s : State) : Host.Outcome State Fault Refusal :=
  .next (edge s (rxOffer (inputOf s)) (if s.opened then scanFrame s f else scanNothing s) (ctl s (inputOf s)))

/-- HANDSHAKE: a cycle of phase HS (42_transactor.md rule R176, 30_encoding.md rule R88), which transfers the next of its three
bytes if the sink is ready. In another phase the block is transmitting no handshake and the cycle is an ordinary one. -/
def execHandshake (s : State) : Host.Outcome State Fault Refusal :=
  .next (edge s (rxOffer (inputOf s)) (readerScan s)
    (if s.phase = .hs then ctlHs s (inputOf s) else ctl s (inputOf s)))

/-- A cycle in which the byte source offers `b` on RX (R142): appended while open and `rxbuf` has room, refused while it is full
(R141), discarded while closed (R145). -/
def receiveByte (b : Byte) (s : State) : State :=
  edge s (some b) (readerScan s) (ctl s (inputOf s))

/-- CMD_OK: the command byte 00 on RX (30_encoding.md rules R85, R86). -/
def execCmdOk (s : State) : Host.Outcome State Fault Refusal := .next (receiveByte 0x00 s)

/-- CMD_GET_STATE: the command byte 03 on RX (R85, R86). -/
def execCmdGetState (s : State) : Host.Outcome State Fault Refusal := .next (receiveByte 0x03 s)

/-- CMD_ERROR: the command byte FF on RX (R85, R87): a byte like any other. -/
def execCmdError (s : State) : Host.Outcome State Fault Refusal := .next (receiveByte 0xFF s)

end Sys2Proof.Machine
end

