-- ==== Sys2Proof/Machine/Dispatch.lean ====
section
/-! DEFINITION. Sys2Proof/Machine/Dispatch.lean: one arm per constructor of Instr, each one call of its meaning. -/

namespace Sys2Proof.Machine

def exec (i : Instr) (s : State) : Host.Outcome State Fault Refusal :=
  match i with
  | .transact command data => Sys2Proof.Machine.execTransact command data s
  | .poll => Sys2Proof.Machine.execPoll s
  | .openPort => Sys2Proof.Machine.execOpen s
  | .closePort => Sys2Proof.Machine.execClose s
  | .frame f => Sys2Proof.Machine.execFrame f s
  | .handshake => Sys2Proof.Machine.execHandshake s
  | .cmdOk => Sys2Proof.Machine.execCmdOk s
  | .cmdGetState => Sys2Proof.Machine.execCmdGetState s
  | .cmdError => Sys2Proof.Machine.execCmdError s

end Sys2Proof.Machine
end

