-- ==== Sys2Proof/Machine/Fetch.lean ====
section
/-! DEFINITION. Sys2Proof/Machine/Fetch.lean: which instructions the block meets in a cycle. It has no program counter (10_state.md
rule R33): a request word stands on the request port, a frame at the front of `rxbuf`, the handshake in phase HS, a byte on RX, and
several of them can be met in one cycle (log 5). -/

namespace Sys2Proof.Machine

/-- The operation accepted in this cycle (42_transactor.md rule R170). -/
def metRequest (s : State) : List Instr :=
  if reqFire s (inputOf s) then [decodeRequest (requestWord (inputOf s))] else []

/-- The handshake, in phase HS (R176). -/
def metHandshake (s : State) : List Instr := if s.phase = .hs then [.handshake] else []

/-- The frame the reader's window decodes to, while it is active (41_reader.md rules R140, R143). -/
def metFrame (s : State) : List Instr :=
  if s.opened = true ∧ Config.frameLen ≤ s.rxbuf.length then
    match decode s.params.checkMagic (.frame (window s)) with
    | .ok i => [i]
    | .error _ => []
  else []

/-- The command byte offered on RX, if it is one the table has a row for. The block cannot tell which field of a frame a received
byte belongs to (20_memory.md rule R66, 30_encoding.md rules R86, R90). -/
def metCommand (s : State) : List Instr :=
  match rxOffer (inputOf s) with
  | none => []
  | some b =>
    match decode s.params.checkMagic (.command b) with
    | .ok i => [i]
    | .error _ => []

/-- Every instruction the block meets in this cycle (rst = 0). -/
def met (s : State) : List Instr := metRequest s ++ metHandshake s ++ metFrame s ++ metCommand s

/-- The instruction `step` runs: the first of them. The others take effect in the same cycle all the same. -/
def fetch (s : State) : Option Instr := (met s).head?

/-- The environment's next inputs with a change made to them, all others quiet where nothing is listed. -/
def withInput (s : State) (change : Inputs → Inputs) : List Inputs :=
  change (match s.env with | [] => Inputs.quiet | inp :: _ => inp) :: s.env.tail

/-- `s` with the encoded instruction put where the next cycle meets it first (log 6): a request word offered on the port in IDLE;
a frame at the front of the open reader's buffer; phase HS at the first handshake byte, with the sink ready; a byte offered on RX
to the open block. Bytes that are no handshake are transmitted by no phase, and leave `s` alone. -/
def placeCode (s : State) : Code → State
  | .request word =>
    { s with
      wasReset := true
      phase := .idle
      env := withInput s fun inp =>
        { inp with rst := false, reqValid := true, reqOp := word.extractLsb' 40 2, reqCommand := word.extractLsb' 32 8,
                   reqData := word.extractLsb' 0 32 } }
  | .frame bytes =>
    { s with
      wasReset := true
      phase := .idle
      opened := true
      rxbuf := bytes ++ s.rxbuf.drop Config.frameLen
      env := withInput s fun inp => { inp with rst := false, reqValid := false } }
  | .handshake bytes =>
    if bytes = [Config.hsByte, Config.hsByte, Config.hsByte] then
      { s with
        wasReset := true
        phase := .hs
        opened := true
        txidx := 0
        env := withInput s fun inp => { inp with rst := false, txReady := true } }
    else s
  | .command b =>
    { s with
      wasReset := true
      phase := .idle
      opened := true
      env := withInput s fun inp => { inp with rst := false, reqValid := false, rxValid := true, rxByte := b } }

/-- `placeCode` of a table word; a number that is no word of the table leaves `s` alone. -/
def placeTableWord (s : State) (nbits w : Nat) : State :=
  match tableCode nbits w with
  | none => s
  | some c => placeCode s c

end Sys2Proof.Machine
end

