-- ==== Sys2Proof/Machine/Step.lean ====
section
/-! DEFINITION. Sys2Proof/Machine/Step.lean: one clock cycle (43_cycle.md rules R220, R221). -/

namespace Sys2Proof.Machine

/-- One rising edge of `clk`. rst = 1 beats everything (60_exceptions.md rule R246); a block never reset admits no other step
(10_state.md rule R38); then the cycle runs as the instruction it meets, or, meeting none, as the plain cycle. -/
def step (s : State) : Host.Outcome State Fault Refusal :=
  if (inputOf s).rst then .next (resetEdge s)
  else if s.wasReset then
    match fetch s with
    | some i => exec i s
    | none => .next (clockCycle s)
  else .fault .unreset

/-- `s` with a table word put where the next step meets it (log 6). -/
def State.withFetchWord (s : State) (nbits w : Nat) : State := placeTableWord s nbits w

end Sys2Proof.Machine
end

