-- ==== Sys2Proof/Safety.lean ====
section
/-! DEFINITION. Sys2Proof/Safety.lean: the invariants of 10_state.md rule R29, the end of a host program (43_cycle.md rule R226),
and what an observer of the ports sees of a run: the bytes received and transmitted, the frames published. Claims are stated in
these terms. -/

namespace Sys2Proof.Machine

/-! ### The invariants (R29) -/

/-- A length within a depth that may be unbounded. -/
abbrev Within (depth : Option Nat) (n : Nat) : Prop := ∀ d ∈ depth, n ≤ d

/-- R29.1: capacities. -/
abbrev CapacityInv (s : State) : Prop :=
  Within s.params.rxbufDepth s.rxbuf.length ∧ Within s.params.respqDepth s.respq.length

/-- R29.2: closed means both queues empty and IDLE or RESP. -/
abbrev ClosedInv (s : State) : Prop :=
  s.opened = false → s.rxbuf = [] ∧ s.respq = [] ∧ (s.phase = .idle ∨ s.phase = .resp)

/-- R29.3: HS, TX and WAIT only while open. -/
abbrev ActiveInv (s : State) : Prop :=
  (s.phase = .hs ∨ s.phase = .tx ∨ s.phase = .wait) → s.opened = true

/-- R29.4: the range of `txidx` per phase. -/
abbrev TxidxInv (s : State) : Prop :=
  (s.phase = .hs → s.txidx.val ≤ 2) ∧ (s.phase = .tx → s.txidx.val ≤ 8) ∧
    (s.phase ≠ .hs → s.phase ≠ .tx → s.txidx.val = 0)

/-- R29.5: the range of `timer`. -/
abbrev TimerInv (s : State) : Prop :=
  s.timer < s.params.timeoutTicks ∧ (s.phase ≠ .wait → s.timer = 0)

/-- R29.6: the response frame is zero unless the status is FRAME. -/
abbrev ResponseInv (s : State) : Prop := s.rspStatus = .frame ∨ s.rspFrame = Frame.zero

/-- R29.7: every queued frame decodes back from its own wire bytes. -/
abbrev QueueInv (s : State) : Prop :=
  ∀ f ∈ s.respq, decodeFrame s.params.checkMagic (wireBytes f) = .ok f

/-- The seven invariants of R29, with legal parameters (R8). -/
abbrev Inv (s : State) : Prop :=
  s.params.Legal ∧ CapacityInv s ∧ ClosedInv s ∧ ActiveInv s ∧ TxidxInv s ∧ TimerInv s ∧ ResponseInv s ∧ QueueInv s

/-! ### One cycle, seen from the ports -/

/-- A cycle that runs the block: rst = 0, in a block that has been reset. -/
abbrev Running (s : State) : Prop := (inputOf s).rst = false ∧ s.wasReset = true

/-- The byte transferred on TX in this cycle (20_memory.md rule R62). -/
def sentByte (s : State) : List Byte :=
  if (outputs s (inputOf s).rst).txValid && (inputOf s).txReady then [(outputs s (inputOf s).rst).txByte] else []

/-- The byte transferred on RX in this cycle (20_memory.md rule R61). -/
def receivedByte (s : State) : List Byte :=
  if (outputs s (inputOf s).rst).rxReady then (rxOffer (inputOf s)).toList else []

/-- The byte appended to `rxbuf` in this cycle: one received while open (R61, R142). -/
def appendedByte (s : State) : List Byte := if s.opened then receivedByte s else []

/-- The frame published in this cycle (R143). -/
def publishedFrame (s : State) : List Frame :=
  if (inputOf s).rst then [] else (readerScan s).publish.toList

/-- The frame taken from `respq` in this cycle, by WAIT or by POLL (20_memory.md rules R69, R71). -/
def takenFrame (s : State) : List Frame :=
  if (inputOf s).rst then [] else if (ctl s (inputOf s)).pop then s.respq.take 1 else []

/-- The end state of a host program (R226): IDLE, and the reader has no step left to take. That the host has issued its last
operation and taken its response, and that the byte source offers nothing more, is the environment's part of the definition. -/
abbrev AtRest (s : State) : Prop :=
  s.phase = .idle ∧
    (s.rxbuf.length < Config.frameLen ∨
      ((∃ f, decodeFrame s.params.checkMagic (window s) = .ok f) ∧ hasRoom s.params.respqDepth s.respq.length = false))

/-! ### A run of `n` cycles, seen from the ports -/

/-- What the cycles of a run give when `observe` is read at the start of each, in order. -/
def observed {α : Type} (observe : State → List α) : Nat → State → List α
  | 0, _ => []
  | n + 1, s =>
    observe s ++
      (match step s with
       | .next t => observed observe n t
       | .fault _ => []
       | .refused _ => [])

/-- The bytes sent on TX during `n` cycles. -/
def sentDuring : Nat → State → List Byte := observed sentByte

/-- The bytes appended to `rxbuf` during `n` cycles. -/
def appendedDuring : Nat → State → List Byte := observed appendedByte

/-- The frames published during `n` cycles. -/
def publishedDuring : Nat → State → List Frame := observed publishedFrame

/-- The frames taken from `respq` during `n` cycles. -/
def takenDuring : Nat → State → List Frame := observed takenFrame

/-- The transport is open at the start of each of `n` cycles from `s` on, and after the last: no reset and no CLOSE took effect. -/
def OpenThroughout (n : Nat) (s : State) : Prop :=
  ∀ k ≤ n, ∀ u, Host.Core.run core k s = .next u → u.opened = true

/-- `respq` has room at the start of each of `n` cycles from `s` on. -/
def RoomThroughout (n : Nat) (s : State) : Prop :=
  ∀ k < n, ∀ u, Host.Core.run core k s = .next u → hasRoom u.params.respqDepth u.respq.length = true

/-- No frame is queued at the start of each of `n` cycles from `s` on. -/
def NoFrameThroughout (n : Nat) (s : State) : Prop :=
  ∀ k < n, ∀ u, Host.Core.run core k s = .next u → u.respq = []

end Sys2Proof.Machine
end

