-- ==== Sys2Proof/Certificates/Slice0/Obligations.lean ====
section
/-! DEFINITION. Sys2Proof/Certificates/Slice0/Obligations.lean: the statements for the provers. `run core n s` is `n` clock cycles;
`s.env` lists the inputs of the coming cycles, and a statement about every `s` is about every environment and every value of the
static parameters. The fields `env`, `cycle`, `wasReset` and `params`, and running a cycle through `exec`, are the model's own form
(logs 1 to 6 and 11): a clause about them formalises no rule. So is what a statement says of the outputs of a block never reset
(log 13). -/

open Sys2Proof Sys2Proof.Machine

/-! ### The codec (40_codec.md) -/

/-- R120. -/
def Obligations.ChecksumXorsCommandAndDataBytes : Prop :=
  (∀ (c : Byte) (d : Word32),
    checksum c d = c ^^^ d.extractLsb' 0 8 ^^^ d.extractLsb' 8 8 ^^^ d.extractLsb' 16 8 ^^^ d.extractLsb' 24 8) ∧
  (∀ d : Word32,
    checksum (d.extractLsb' 0 8 ^^^ d.extractLsb' 8 8 ^^^ d.extractLsb' 16 8 ^^^ d.extractLsb' 24 8) d = 0x00) ∧
  checksum 0x00 0 = 0x00 ∧ checksum 0xFF 0xFFFFFFFF = 0xFF ∧ checksum 0x01 0x01000000 = 0x00 ∧ checksum 0x03 0 = 0x03

/-- R121. -/
def Obligations.EncodeWritesMagicCommandDataChecksum : Prop :=
  (∀ (c : Byte) (d : Word32),
    (encodeFrame c d).toList =
      [0xA5, 0xAA, 0xAA, c, d.extractLsb' 0 8, d.extractLsb' 8 8, d.extractLsb' 16 8, d.extractLsb' 24 8, checksum c d]) ∧
  (encodeFrame 0xFF 0xFFFFFFFF).toList = [0xA5, 0xAA, 0xAA, 0xFF, 0xFF, 0xFF, 0xFF, 0xFF, 0xFF] ∧
  (encodeFrame 0x12 0x78563412).toList = [0xA5, 0xAA, 0xAA, 0x12, 0x12, 0x34, 0x56, 0x78, 0x1A] ∧
  (encodeFrame 0x03 0).toList = [0xA5, 0xAA, 0xAA, 0x03, 0x00, 0x00, 0x00, 0x00, 0x03]

/-- R82: the assembly and its inverse. -/
def Obligations.DataBytesAssembleLittleEndian : Prop :=
  (∀ w4 w5 w6 w7 : Byte,
    assembleData w4 w5 w6 w7 =
      (w4.setWidth 32 ||| (w5.setWidth 32 <<< 8) ||| (w6.setWidth 32 <<< 16) ||| (w7.setWidth 32 <<< 24)) ∧
    (assembleData w4 w5 w6 w7).extractLsb' 0 8 = w4 ∧ (assembleData w4 w5 w6 w7).extractLsb' 8 8 = w5 ∧
    (assembleData w4 w5 w6 w7).extractLsb' 16 8 = w6 ∧ (assembleData w4 w5 w6 w7).extractLsb' 24 8 = w7) ∧
  (∀ d : Word32,
    assembleData (d.extractLsb' 0 8) (d.extractLsb' 8 8) (d.extractLsb' 16 8) (d.extractLsb' 24 8) = d)

/-- R123: VALID, and that it holds exactly when DECODE is Ok. -/
def Obligations.ValidExactlyWhenDecodeIsOk : Prop :=
  ∀ (cm : Bool) (w : List Byte),
    (w.length = 9 ∧
      w.getD 3 0 ^^^ w.getD 4 0 ^^^ w.getD 5 0 ^^^ w.getD 6 0 ^^^ w.getD 7 0 = w.getD 8 0 ∧
      (cm = false ∨ (w.getD 0 0 = 0xA5 ∧ w.getD 1 0 = 0xAA ∧ w.getD 2 0 = 0xAA))) ↔
    ∃ f, decodeFrame cm w = .ok f

/-- DECODE by its checks in order, and the fields of the frame it returns (R124, R125). -/
def Obligations.DecodeChecksLengthThenChecksumThenMagic : Prop :=
  ∀ (cm : Bool) (w : List Byte),
    (w.length ≠ 9 → decodeFrame cm w = .err .invalidSize) ∧
    (w.length = 9 →
      (w.getD 3 0 ^^^ w.getD 4 0 ^^^ w.getD 5 0 ^^^ w.getD 6 0 ^^^ w.getD 7 0 ≠ w.getD 8 0 →
        decodeFrame cm w = .err .checksumMismatch) ∧
      (w.getD 3 0 ^^^ w.getD 4 0 ^^^ w.getD 5 0 ^^^ w.getD 6 0 ^^^ w.getD 7 0 = w.getD 8 0 →
        (cm = true → ¬ (w.getD 0 0 = 0xA5 ∧ w.getD 1 0 = 0xAA ∧ w.getD 2 0 = 0xAA) → decodeFrame cm w = .err .badMagic) ∧
        ((cm = false ∨ (w.getD 0 0 = 0xA5 ∧ w.getD 1 0 = 0xAA ∧ w.getD 2 0 = 0xAA)) →
          decodeFrame cm w =
            .ok { m0 := w.getD 0 0, m1 := w.getD 1 0, m2 := w.getD 2 0, command := w.getD 3 0,
                  data := (w.getD 4 0).setWidth 32 ||| ((w.getD 5 0).setWidth 32 <<< 8) |||
                            ((w.getD 6 0).setWidth 32 <<< 16) ||| ((w.getD 7 0).setWidth 32 <<< 24),
                  checksum := w.getD 8 0 })))

/-- R126: the round trip, its converse, and that with CHECK_MAGIC = 1 ENCODE inverts every successful DECODE. -/
def Obligations.CodecRoundTrip : Prop :=
  (∀ (cm : Bool) (c : Byte) (d : Word32),
    decodeFrame cm (encodeFrame c d).toList =
      .ok { m0 := 0xA5, m1 := 0xAA, m2 := 0xAA, command := c, data := d, checksum := checksum c d }) ∧
  (∀ (cm : Bool) (w : List Byte) (f : Frame), decodeFrame cm w = .ok f →
    f.m0 = 0xA5 → f.m1 = 0xAA → f.m2 = 0xAA → (encodeFrame f.command f.data).toList = w) ∧
  (∀ (w : List Byte) (f : Frame), decodeFrame true w = .ok f →
    f.m0 = 0xA5 ∧ f.m1 = 0xAA ∧ f.m2 = 0xAA ∧ (encodeFrame f.command f.data).toList = w)

/-- R127: one flipped bit of an encoded frame. -/
def Obligations.SingleBitFlipIsDetected : Prop :=
  ∀ (c : Byte) (d : Word32) (i j : Nat), i < 9 → j < 8 →
    let w := (encodeFrame c d).toList
    let w' := w.set i (w.getD i 0 ^^^ (1#8 <<< j))
    (3 ≤ i → ∀ cm, decodeFrame cm w' = .err .checksumMismatch) ∧
    (i < 3 →
      decodeFrame true w' = .err .badMagic ∧
      decodeFrame false w' =
        .ok { m0 := w'.getD 0 0, m1 := w'.getD 1 0, m2 := w'.getD 2 0, command := c, data := d, checksum := checksum c d })

/-- R128: a corruption of bytes 3 to 8 of a valid frame goes undetected exactly when each bit position is flipped in an even
number of them; and the rule's example. -/
def Obligations.UndetectedCorruptionFlipsEvenly : Prop :=
  (∀ (cm : Bool) (w0 w1 w2 w3 w4 w5 w6 w7 w8 : Byte) (f : Frame),
    decodeFrame cm [w0, w1, w2, w3, w4, w5, w6, w7, w8] = .ok f →
    ∀ e3 e4 e5 e6 e7 e8 : Byte,
      (∃ g, decodeFrame cm
          [w0, w1, w2, w3 ^^^ e3, w4 ^^^ e4, w5 ^^^ e5, w6 ^^^ e6, w7 ^^^ e7, w8 ^^^ e8] = .ok g) ↔
        ∀ j < 8, ([e3, e4, e5, e6, e7, e8].filter (fun e => e.getLsbD j)).length % 2 = 0) ∧
  (∀ cm, decodeFrame cm [0xA5, 0xAA, 0xAA, 0x03, 0x01, 0x01, 0x00, 0x00, 0x03] =
    .ok { m0 := 0xA5, m1 := 0xAA, m2 := 0xAA, command := 0x03, data := 0x00000101, checksum := 0x03 })

/-- R129: a line that repeats one byte. With CHECK_MAGIC = 0 every nine of them are a frame; with 1 none is. -/
def Obligations.ConstantLineMakesFramesOnlyWithoutMagicCheck : Prop :=
  (∀ (b : Byte) (n : Nat),
    resync false (List.replicate (9 * n) b) =
      (List.replicate n { m0 := b, m1 := b, m2 := b, command := b, data := b ++ b ++ b ++ b, checksum := b }, [])) ∧
  (∀ (b : Byte) (n : Nat), (resync true (List.replicate n b)).1 = []) ∧
  (∀ b : Byte, decodeFrame true (List.replicate 9 b) = .err .badMagic)

/-! ### Encodings (30_encoding.md) -/

/-- R93: the mask and match of each operation, and the operation its words select. -/
def Obligations.RequestWordsSelectOneOperation : Prop :=
  (∀ w : BitVec 42,
    (w &&& 0x30000000000#42 = 0x00000000000#42 →
      decodeRequest w = .transact (w.extractLsb' 32 8) (w.extractLsb' 0 32)) ∧
    (w &&& 0x30000000000#42 = 0x10000000000#42 → decodeRequest w = .poll) ∧
    (w &&& 0x30000000000#42 = 0x20000000000#42 → decodeRequest w = .openPort) ∧
    (w &&& 0x30000000000#42 = 0x30000000000#42 → decodeRequest w = .closePort) ∧
    (w &&& 0x30000000000#42 = 0x00000000000#42 ∨ w &&& 0x30000000000#42 = 0x10000000000#42 ∨
      w &&& 0x30000000000#42 = 0x20000000000#42 ∨ w &&& 0x30000000000#42 = 0x30000000000#42)) ∧
  (∀ cm, decode cm (.request 0x00300000000#42) = .ok (.transact 0x03 0))

/-- Words of the opcode table written out from the spec's encodings decode to their instructions. -/
def Obligations.TableWordsDecodeToTheirRows : Prop :=
  decodeTableWord 48 0x00300000000 = some (.transact 0x03 0) ∧
  decodeTableWord 48 0x10000000000 = some .poll ∧
  decodeTableWord 48 0x2ABCDEF0123 = some .openPort ∧
  decodeTableWord 48 0x30000000000 = some .closePort ∧
  decodeTableWord 72 0xA5AAAA000500000005 =
    some (.frame { m0 := 0xA5, m1 := 0xAA, m2 := 0xAA, command := 0x00, data := 5, checksum := 0x05 }) ∧
  decodeTableWord 24 0b000111100001111000011110 = some .handshake ∧
  decodeTableWord 8 0x00 = some .cmdOk ∧ decodeTableWord 8 0x03 = some .cmdGetState ∧
  decodeTableWord 8 0xFF = some .cmdError

/-- Decoding the encoding of any well-formed instruction gives it back, with every operand. -/
def Obligations.DecodeInvertsEncode : Prop :=
  ∀ (cm : Bool) (i : Instr), i.wf cm = true → decode cm (encode i) = .ok i

/-- What decodes is well formed, stands in its row's format, and, on the wire, is the instruction's one encoding. -/
def Obligations.WireEncodingsAreUnique : Prop :=
  ∀ (cm : Bool) (c : Code) (i : Instr), decode cm c = .ok i →
    i.wf cm = true ∧ i.format = c.format ∧ (c.format ≠ .request → encode i = c)

/-- R94: when a response is offered and transferred, and the places of its fields in the response word. -/
def Obligations.ResponseWordLayout : Prop :=
  ∀ (s : State) (inp : Inputs),
    ((outputs s false).rspValid = true ↔ s.phase = .resp) ∧
    (rspFire s inp = true ↔ (outputs s false).rspValid = true ∧ inp.rspReady = true) ∧
    (responseWord s).extractLsb' 72 3 = (outputs s false).rspStatus ∧
    (responseWord s).extractLsb' 48 24 = (outputs s false).rspMagic ∧
    (responseWord s).extractLsb' 48 8 = s.rspFrame.m0 ∧
    (responseWord s).extractLsb' 40 8 = (outputs s false).rspCommand ∧
    (responseWord s).extractLsb' 8 32 = (outputs s false).rspData ∧
    (responseWord s).extractLsb' 0 8 = (outputs s false).rspChecksum

/-- R96, with the six codes of R95. -/
def Obligations.StatusCodesAreSix : Prop :=
  (∀ st : Status, st.code ≠ 6 ∧ st.code ≠ 7) ∧
  (∀ s : State, ∀ rst, (outputs s rst).rspStatus ≠ 6 ∧ (outputs s rst).rspStatus ≠ 7) ∧
  (∀ st : Status, st = .frame ∨ st = .timeout ∨ st = .empty ∨ st = .done ∨ st = .notOpen ∨ st = .illegal) ∧
  Status.frame.code = 0 ∧ Status.timeout.code = 1 ∧ Status.empty.code = 2 ∧ Status.done.code = 3 ∧
  Status.notOpen.code = 4 ∧ Status.illegal.code = 5

/-! ### Outputs and reset (10_state.md, 70_reset_and_hazards.md) -/

/-- R32: each output as a function of the state, and the four that rst = 1 forces to 0. -/
def Obligations.OutputsFollowState : Prop :=
  ∀ s : State,
    (outputs s true).rxReady = false ∧ (outputs s true).txValid = false ∧
    (outputs s true).reqReady = false ∧ (outputs s true).rspValid = false ∧
    ((outputs s false).rxReady = true ↔ s.opened = false ∨ (∀ d ∈ s.params.rxbufDepth, s.rxbuf.length < d)) ∧
    ((outputs s false).txValid = true ↔ s.phase = .hs ∨ s.phase = .tx) ∧
    (outputs s false).txByte =
      (if s.phase = .hs then 0x1E else if s.phase = .tx then s.txbuf[s.txidx] else 0x00) ∧
    ((outputs s false).reqReady = true ↔ s.phase = .idle) ∧
    ((outputs s false).rspValid = true ↔ s.phase = .resp) ∧
    (outputs s false).rspStatus = s.rspStatus.code ∧
    (outputs s false).rspMagic.extractLsb' 0 8 = s.rspFrame.m0 ∧
    (outputs s false).rspMagic.extractLsb' 8 8 = s.rspFrame.m1 ∧
    (outputs s false).rspMagic.extractLsb' 16 8 = s.rspFrame.m2 ∧
    (outputs s false).rspCommand = s.rspFrame.command ∧ (outputs s false).rspData = s.rspFrame.data ∧
    (outputs s false).rspChecksum = s.rspFrame.checksum ∧
    (outputs s false).stOpened = s.opened ∧ ((outputs s false).stBusy = true ↔ s.phase ≠ .idle) ∧
    (outputs s false).stRxCount = s.rxbuf.length ∧ (outputs s false).stRespqCount = s.respq.length

/-- R37: the state after any clock edge with rst = 1, whatever it was before (a block never reset included), and its outputs. -/
def Obligations.ResetEdgeLeavesResetState : Prop :=
  ∀ s : State, (inputOf s).rst = true →
    ∃ t, step s = .next t ∧
      t.opened = false ∧ t.phase = .idle ∧ t.txbuf.toList = [0, 0, 0, 0, 0, 0, 0, 0, 0] ∧ t.txidx = 0 ∧ t.timer = 0 ∧
      t.rspStatus.code = 0 ∧ t.rspFrame = { m0 := 0, m1 := 0, m2 := 0, command := 0, data := 0, checksum := 0 } ∧
      t.rxbuf = [] ∧ t.respq = [] ∧
      (outputs t false).rxReady = true ∧ (outputs t false).txValid = false ∧ (outputs t false).reqReady = true ∧
      (outputs t false).rspValid = false ∧ (outputs t false).stRxCount = 0 ∧ (outputs t false).stRespqCount = 0

/-- In a reset cycle no other input and no earlier state matters (R270, R271): two blocks of the same parameters whose
environments go on alike are the same afterwards, and nothing is transferred. The parameters stay (R36); that the block is then no
longer stuck is the model's flag `wasReset` (log 3). -/
def Obligations.ResetCycleIgnoresEverythingElse : Prop :=
  ∀ s s' : State, (inputOf s).rst = true → (inputOf s').rst = true → s.params = s'.params → s.env.tail = s'.env.tail →
    s.cycle = s'.cycle →
    step s = step s' ∧ (∃ t, step s = .next t ∧ t.params = s.params ∧ t.wasReset = true) ∧ sentByte s = [] ∧ receivedByte s = [] ∧ publishedFrame s = [] ∧ takenFrame s = []

/-- A block that has never been reset admits no step but a reset edge (R38, R272); that it stops by the fault `unreset` is the
model's form of "stuck" (log 3). No other step of the machine faults or is refused. -/
def Obligations.OnlyTheUnresetBlockIsStuck : Prop :=
  (∀ s : State, step s = .fault .unreset ↔ s.wasReset = false ∧ (inputOf s).rst = false) ∧
  (∀ (s : State) (r : Refusal), step s ≠ .refused r) ∧
  (∀ (i : Instr) (s : State), ∃ t, exec i s = .next t)

/-! ### The clock cycle (43_cycle.md) -/

/-- Every instruction the block meets in a cycle is run by that cycle's step: an operation accepted, the handshake in phase HS, the
frame in the window, a command byte on RX; several at once give one and the same step. Meeting none, the step is the plain
cycle. HANDSHAKE outside phase HS is the plain cycle too (log 4). -/
def Obligations.StepRunsEveryInstructionItMeets : Prop :=
  (∀ (s : State) (i : Instr), (inputOf s).rst = false → s.wasReset = true → i ∈ met s → step s = exec i s) ∧
  (∀ s : State, (inputOf s).rst = false → s.wasReset = true → met s = [] → step s = .next (clockCycle s)) ∧
  (∀ s : State, (inputOf s).reqValid = true → s.phase = .idle → decodeRequest (requestWord (inputOf s)) ∈ met s) ∧
  (∀ s : State, s.phase = .hs → Instr.handshake ∈ met s) ∧
  (∀ (s : State) (f : Frame), s.opened = true → decodeFrame s.params.checkMagic (s.rxbuf.take 9) = .ok f → .frame f ∈ met s) ∧
  (∀ (s : State) (i : Instr) (b : Byte), (inputOf s).rxValid = true → (inputOf s).rxByte = b → encode i = .command b → i ∈ met s) ∧
  (∀ s : State, s.phase ≠ .hs → exec .handshake s = .next (clockCycle s))

/-- R221: the step in full, in terms of the transactor's table `ctl` (R222). -/
def Obligations.StepComposesReaderTransactorAndQueues : Prop :=
  ∀ s : State, s.wasReset = true →
    ((inputOf s).rst = true → step s = .next (State.resetWith s.params s.env.tail (s.cycle + 1))) ∧
    ((inputOf s).rst = false →
      let inp := inputOf s
      let rxFire : Bool := inp.rxValid && (!s.opened || hasRoom s.params.rxbufDepth s.rxbuf.length)
      let scanned : List Byte × Option Frame :=
        if s.opened = true ∧ 9 ≤ s.rxbuf.length then
          match decodeFrame s.params.checkMagic (s.rxbuf.take 9) with
          | .ok f => if hasRoom s.params.respqDepth s.respq.length then (s.rxbuf.drop 9, some f) else (s.rxbuf, none)
          | .err _ => (s.rxbuf.drop 1, none)
        else (s.rxbuf, none)
      let c := ctl s inp
      step s = .next
        { s with
          opened := c.opened, phase := c.phase, txbuf := c.txbuf, txidx := c.txidx, timer := c.timer,
          rspStatus := c.rspStatus, rspFrame := c.rspFrame,
          rxbuf := if c.clear then [] else scanned.1 ++ (if rxFire && s.opened then [inp.rxByte] else []),
          respq := if c.clear then [] else (if c.pop then s.respq.drop 1 else s.respq) ++ scanned.2.toList,
          env := s.env.tail, cycle := s.cycle + 1 })

/-- What `quietCycle`, the base of the statements below, leaves: the reader's part of the cycle, all else unchanged. -/
def Obligations.QuietCycleIsTheReaderAlone : Prop :=
  ∀ s : State,
    quietCycle s =
      { s with rxbuf := (readerScan s).rxbuf ++ rxAppend s (rxOffer (inputOf s)),
               respq := s.respq ++ (readerScan s).publish.toList, env := s.env.tail, cycle := s.cycle + 1 } ∧
    (s.opened = false → (quietCycle s).rxbuf = s.rxbuf ∧ (quietCycle s).respq = s.respq)

/-! ### The host operations (42_transactor.md section 2) -/

/-- TRANSACT accepted (R172), in either state of the transport: the whole next state. -/
def Obligations.TransactAccepted : Prop :=
  ∀ (s : State) (c : Byte) (d : Word32), s.phase = .idle →
    (s.opened = true →
      exec (.transact c d) s = .next { quietCycle s with txbuf := encodeFrame c d, txidx := 0, phase := .tx }) ∧
    (s.opened = false →
      exec (.transact c d) s =
        .next { quietCycle s with rspStatus := .notOpen, rspFrame := Frame.zero, phase := .resp })

/-- R173: POLL's encoding, and POLL accepted: the whole next state. -/
def Obligations.PollAccepted : Prop :=
  (∀ w : BitVec 42, w.extractLsb' 40 2 = 1 → decodeRequest w = .poll) ∧
  ∀ s : State, s.phase = .idle →
    (s.opened = false →
      exec .poll s = .next { quietCycle s with rspStatus := .notOpen, rspFrame := Frame.zero, phase := .resp }) ∧
    (∀ f q, s.opened = true → s.respq = f :: q →
      exec .poll s =
        .next { quietCycle s with rspStatus := .frame, rspFrame := f, phase := .resp,
                                  respq := q ++ (readerScan s).publish.toList }) ∧
    (s.opened = true → s.respq = [] →
      exec .poll s = .next { quietCycle s with rspStatus := .empty, rspFrame := Frame.zero, phase := .resp })

/-- OPEN accepted (R174): the handshake begins; while open it is ILLEGAL and changes nothing else (R245). -/
def Obligations.OpenAccepted : Prop :=
  ∀ s : State, s.phase = .idle →
    (s.opened = false →
      exec .openPort s =
        .next { s with opened := true, txidx := 0, phase := .hs, env := s.env.tail, cycle := s.cycle + 1 }) ∧
    (s.opened = true →
      exec .openPort s = .next { quietCycle s with rspStatus := .illegal, rspFrame := Frame.zero, phase := .resp })

/-- CLOSE accepted (R175): both queues emptied, a frame published and a byte accepted in the same cycle included; idempotent. -/
def Obligations.CloseAccepted : Prop :=
  ∀ s : State, s.phase = .idle →
    (s.opened = true →
      exec .closePort s =
        .next { s with opened := false, rxbuf := [], respq := [], rspStatus := .done, rspFrame := Frame.zero,
                       phase := .resp, env := s.env.tail, cycle := s.cycle + 1 }) ∧
    (s.opened = false →
      exec .closePort s =
        .next { s with rspStatus := .done, rspFrame := Frame.zero, phase := .resp,
                       env := s.env.tail, cycle := s.cycle + 1 })

/-- An operation offered outside IDLE is not accepted and has no effect (R170): the cycle runs as it does without it. -/
def Obligations.OperationOfferedWhileBusyHasNoEffect : Prop :=
  ∀ (s : State) (i : Instr) (inp : Inputs), i.format = .request → s.phase ≠ .idle → s.wasReset = true →
    inputOf s = inp → inp.rst = false →
    exec i s = step { s with env := { inp with reqValid := false } :: s.env.tail }

/-- At most one operation is in flight (R171): an accepted operation leaves IDLE in the same edge, and only a response taken by the
host, or a reset, brings the block back to it. -/
def Obligations.OneOperationInFlight : Prop :=
  ∀ s t : State, step s = .next t → (inputOf s).rst = false →
    (reqFire s (inputOf s) = true → s.phase = .idle ∧ t.phase ≠ .idle) ∧
    (s.phase ≠ .idle → t.phase = .idle → s.phase = .resp ∧ (inputOf s).rspReady = true) ∧
    ((outputs s false).reqReady = true ↔ s.phase = .idle)

/-! ### The rows met on the byte channel -/

/-- FRAME in the window (R143, R144): published and its nine bytes dropped if `respq` has room, held if not, ignored while closed;
every other field is as in the same cycle without it. -/
def Obligations.FrameMetIsPublishedOrHeld : Prop :=
  ∀ (s : State) (f : Frame),
    let c := ctl s (inputOf s)
    let appended := rxAppend s (rxOffer (inputOf s))
    let q := if c.pop then s.respq.drop 1 else s.respq
    ∃ t, exec (.frame f) s = .next t ∧
      t = { clockCycle s with rxbuf := t.rxbuf, respq := t.respq } ∧
      (c.clear = true → t.rxbuf = [] ∧ t.respq = []) ∧
      (c.clear = false → s.opened = true → hasRoom s.params.respqDepth s.respq.length = true →
        t.rxbuf = s.rxbuf.drop 9 ++ appended ∧ t.respq = q ++ [f]) ∧
      (c.clear = false → s.opened = true → hasRoom s.params.respqDepth s.respq.length = false →
        t.rxbuf = s.rxbuf ++ appended ∧ t.respq = q) ∧
      (s.opened = false → t.rxbuf = s.rxbuf ∧ t.respq = q)

/-- A window that does not decode loses exactly one byte (R143), whatever the error, and nothing is published. -/
def Obligations.InvalidWindowDropsOneByte : Prop :=
  ∀ (s : State) (e : DecodeError), Running s → s.opened = true → 9 ≤ s.rxbuf.length →
    decodeFrame s.params.checkMagic (s.rxbuf.take 9) = .err e → (ctl s (inputOf s)).clear = false →
    ∃ t, step s = .next t ∧ t.rxbuf = s.rxbuf.drop 1 ++ appendedByte s ∧
      t.respq = (if (ctl s (inputOf s)).pop then s.respq.drop 1 else s.respq) ∧ publishedFrame s = []

/-- R145: while closed every byte offered is transferred and discarded, in the cycle that accepts OPEN too. -/
def Obligations.ClosedBlockDiscardsReceivedBytes : Prop :=
  ∀ s : State, Running s → s.opened = false → ClosedInv s →
    (outputs s false).rxReady = true ∧ receivedByte s = (if (inputOf s).rxValid then [(inputOf s).rxByte] else []) ∧
    ∃ t, step s = .next t ∧ t.rxbuf = [] ∧ t.respq = []

/-- CMD_OK, CMD_GET_STATE and CMD_ERROR as bytes on RX (R86, R142): appended while open with room, refused while full, discarded
while closed, alike for the three; every other field is as in the same cycle without the byte. -/
def Obligations.CommandBytesAreReceivedAlike : Prop :=
  ∀ (s : State) (i : Instr) (b : Byte),
    (i = .cmdOk ∧ b = 0x00) ∨ (i = .cmdGetState ∧ b = 0x03) ∨ (i = .cmdError ∧ b = 0xFF) →
    exec i s = .next
      { clockCycle s with
        rxbuf :=
          if (ctl s (inputOf s)).clear then []
          else (readerScan s).rxbuf ++
            (if s.opened && hasRoom s.params.rxbufDepth s.rxbuf.length then [b] else []) }

/-- R176: HANDSHAKE, cycle by cycle and over any run of cycles without reset, however often the sink stalls. -/
def Obligations.HandshakeSendsExactlyThreeBytes : Prop :=
  (∀ s : State, s.phase = .hs →
    (outputs s false).txValid = true ∧ (outputs s false).txByte = 0x1E ∧
    ((inputOf s).txReady = false → exec .handshake s = .next (quietCycle s)) ∧
    (∀ j : Fin 9, (inputOf s).txReady = true → s.txidx.val < 2 → j.val = s.txidx.val + 1 →
      exec .handshake s = .next { quietCycle s with txidx := j }) ∧
    ((inputOf s).txReady = true → s.txidx = 2 →
      exec .handshake s =
        .next { quietCycle s with txidx := 0, rspStatus := .done, rspFrame := Frame.zero, phase := .resp })) ∧
  (∀ (s : State) (l rest : List Inputs), s.wasReset = true → s.phase = .hs → s.txidx = 0 → s.env = l ++ rest →
    (∀ i ∈ l, i.rst = false) →
    ((l.filter (·.txReady)).length ≤ 2 →
      ∃ t, Host.Core.run core l.length s = .next t ∧ t.phase = .hs ∧ t.txidx.val = (l.filter (·.txReady)).length ∧
        sentDuring l.length s = List.replicate (l.filter (·.txReady)).length 0x1E) ∧
    (∀ pre last, l = pre ++ [last] → last.txReady = true → (pre.filter (·.txReady)).length = 2 →
      ∃ t, Host.Core.run core l.length s = .next t ∧ t.phase = .resp ∧ t.rspStatus = .done ∧ t.rspFrame = Frame.zero ∧
        t.txidx = 0 ∧ sentDuring l.length s = [0x1E, 0x1E, 0x1E]))

/-! ### The phases of TRANSACT (42_transactor.md section 3) -/

/-- R177: TX, cycle by cycle and over any run of cycles without reset, however often the sink stalls. -/
def Obligations.TransmissionSendsTheNineBytes : Prop :=
  (∀ s : State, Running s → s.phase = .tx →
    (outputs s false).txValid = true ∧ (outputs s false).txByte = s.txbuf[s.txidx] ∧
    ((inputOf s).txReady = false → step s = .next (quietCycle s)) ∧
    (∀ j : Fin 9, (inputOf s).txReady = true → s.txidx.val < 8 → j.val = s.txidx.val + 1 →
      step s = .next { quietCycle s with txidx := j }) ∧
    ((inputOf s).txReady = true → s.txidx = 8 →
      step s = .next { quietCycle s with txidx := 0, timer := 0, phase := .wait })) ∧
  (∀ (s : State) (l rest : List Inputs), s.wasReset = true → s.phase = .tx → s.txidx = 0 → s.env = l ++ rest →
    (∀ i ∈ l, i.rst = false) →
    ((l.filter (·.txReady)).length ≤ 8 →
      ∃ t, Host.Core.run core l.length s = .next t ∧ t.phase = .tx ∧ t.txidx.val = (l.filter (·.txReady)).length ∧
        t.timer = s.timer ∧ sentDuring l.length s = s.txbuf.toList.take (l.filter (·.txReady)).length) ∧
    (∀ pre last, l = pre ++ [last] → last.txReady = true → (pre.filter (·.txReady)).length = 8 →
      ∃ t, Host.Core.run core l.length s = .next t ∧ t.phase = .wait ∧ t.timer = 0 ∧ t.txidx = 0 ∧
        sentDuring l.length s = s.txbuf.toList))

/-- R178: in WAIT the oldest queued frame is the response, whatever the tick. -/
def Obligations.WaitTakesTheOldestFrame : Prop :=
  ∀ (s : State) (f : Frame) (q : List Frame), Running s → s.phase = .wait → s.respq = f :: q →
    step s = .next
      { quietCycle s with rspStatus := .frame, rspFrame := f, phase := .resp, timer := 0,
                          respq := q ++ (readerScan s).publish.toList }

/-- R179: a tick with no frame queued, cycle by cycle; and over a run in which no frame is queued, TIMEOUT comes exactly with the
tick that makes the count TIMEOUT_TICKS. -/
def Obligations.TimeoutComesWithItsLastTick : Prop :=
  (∀ s : State, Running s → s.phase = .wait → s.respq = [] → (inputOf s).tick = true →
    (s.timer + 1 = s.params.timeoutTicks →
      step s = .next { quietCycle s with timer := 0, rspStatus := .timeout, rspFrame := Frame.zero, phase := .resp }) ∧
    (s.timer + 1 ≠ s.params.timeoutTicks → step s = .next { quietCycle s with timer := s.timer + 1 })) ∧
  (∀ (s : State) (l rest : List Inputs), s.wasReset = true → s.phase = .wait → NoFrameThroughout l.length s →
    s.env = l ++ rest → (∀ i ∈ l, i.rst = false) →
    (s.timer + (l.filter (·.tick)).length < s.params.timeoutTicks →
      ∃ t, Host.Core.run core l.length s = .next t ∧ t.phase = .wait ∧ t.timer = s.timer + (l.filter (·.tick)).length) ∧
    (∀ pre last, l = pre ++ [last] → last.tick = true →
      s.timer + (pre.filter (·.tick)).length + 1 = s.params.timeoutTicks →
      ∃ t, Host.Core.run core l.length s = .next t ∧ t.phase = .resp ∧ t.rspStatus = .timeout ∧
        t.rspFrame = Frame.zero ∧ t.timer = 0))

/-- R184: with ticks every `p` cycles, the first `first < p` cycles after WAIT begins, a TRANSACT that times out spends
`first + (TIMEOUT_TICKS - 1) * p + 1` cycles in WAIT, which lies between the rule's two bounds; with a tick in every cycle,
exactly TIMEOUT_TICKS. -/
def Obligations.TimeoutBounds : Prop :=
  ∀ (s : State) (l rest : List Inputs) (p first : Nat), s.wasReset = true → s.phase = .wait → s.timer = 0 →
    NoFrameThroughout l.length s → s.env = l ++ rest → (∀ i ∈ l, i.rst = false) →
    first < p → 1 ≤ s.params.timeoutTicks → l.length = first + (s.params.timeoutTicks - 1) * p + 1 →
    (∀ j (h : j < l.length), l[j].tick = true ↔ j % p = first) →
    ((s.params.timeoutTicks - 1) * p + 1 ≤ l.length ∧ l.length ≤ s.params.timeoutTicks * p ∧
      (p = 1 → l.length = s.params.timeoutTicks)) ∧
    (∀ k < l.length, ∃ t, Host.Core.run core k s = .next t ∧ t.phase = .wait) ∧
    (∃ t, Host.Core.run core l.length s = .next t ∧ t.phase = .resp ∧ t.rspStatus = .timeout)

/-- R180 and R182: WAIT with neither frame nor tick, and IDLE with no accepted operation, leave the transactor alone. -/
def Obligations.TransactorRestsWithoutEvents : Prop :=
  (∀ s : State, Running s → s.phase = .wait → s.respq = [] → (inputOf s).tick = false → step s = .next (quietCycle s)) ∧
  (∀ s : State, Running s → s.phase = .idle → (inputOf s).reqValid = false → step s = .next (quietCycle s))

/-- R181: RESP holds the response on the port until the host takes it, while the reader keeps running. -/
def Obligations.ResponseIsHeldUntilTaken : Prop :=
  ∀ s : State, Running s → s.phase = .resp →
    (outputs s false).rspValid = true ∧ (outputs s false).rspStatus = s.rspStatus.code ∧
    (outputs s false).rspMagic = packMagic s.rspFrame ∧ (outputs s false).rspCommand = s.rspFrame.command ∧
    (outputs s false).rspData = s.rspFrame.data ∧ (outputs s false).rspChecksum = s.rspFrame.checksum ∧
    ((inputOf s).rspReady = true → step s = .next { quietCycle s with phase := .idle }) ∧
    ((inputOf s).rspReady = false → step s = .next (quietCycle s))

/-- The response registers are written only on the transition into RESP (R26). -/
def Obligations.ResponseRegistersWrittenOnlyOnCompletion : Prop :=
  ∀ s t : State, step s = .next t → (inputOf s).rst = false →
    (t.rspStatus ≠ s.rspStatus ∨ t.rspFrame ≠ s.rspFrame) → s.phase ≠ .resp ∧ t.phase = .resp

/-- The simultaneous events of R246: reset first; a queued frame beats the timeout tick; a frame published in the cycle of a WAIT
decision is not seen by it and stays queued; CLOSE's clear beats the publish and the append; a pop and a publish both happen. -/
def Obligations.PriorityOfSimultaneousEvents : Prop :=
  (∀ s : State, (inputOf s).rst = true → step s = .next (State.resetWith s.params s.env.tail (s.cycle + 1))) ∧
  (∀ (s : State) (f : Frame) (q : List Frame), Running s → s.phase = .wait → s.respq = f :: q → (inputOf s).tick = true →
    s.timer + 1 = s.params.timeoutTicks →
    ∃ t, step s = .next t ∧ t.phase = .resp ∧ t.rspStatus = .frame ∧ t.rspFrame = f) ∧
  (∀ (s : State) (f : Frame), Running s → s.phase = .wait → s.respq = [] → (inputOf s).tick = true →
    s.timer + 1 = s.params.timeoutTicks → s.opened = true →
    decodeFrame s.params.checkMagic (s.rxbuf.take 9) = .ok f → hasRoom s.params.respqDepth 0 = true →
    ∃ t, step s = .next t ∧ t.phase = .resp ∧ t.rspStatus = .timeout ∧ t.respq = [f]) ∧
  (∀ s : State, Running s → s.phase = .idle → s.opened = true → (inputOf s).reqValid = true →
    decodeRequest (requestWord (inputOf s)) = .closePort →
    ∃ t, step s = .next t ∧ t.opened = false ∧ t.rxbuf = [] ∧ t.respq = []) ∧
  (∀ (s : State) (f g : Frame) (q : List Frame), Running s → s.phase = .wait → s.respq = f :: q → s.opened = true →
    decodeFrame s.params.checkMagic (s.rxbuf.take 9) = .ok g → hasRoom s.params.respqDepth s.respq.length = true →
    ∃ t, step s = .next t ∧ t.rspFrame = f ∧ t.respq = q ++ [g])

/-- An input the table of R222 does not name for a phase has no effect in it: outside IDLE the request port, outside HS and TX the
sink, outside WAIT the tick, outside RESP the host's `rsp_ready`. -/
def Obligations.InputsUnnamedForAPhaseHaveNoEffect : Prop :=
  ∀ (s : State) (i j : Inputs) (rest : List Inputs),
    i.rst = j.rst → i.rxValid = j.rxValid → i.rxByte = j.rxByte →
    (s.phase = .idle →
      i.reqValid = j.reqValid ∧ i.reqOp = j.reqOp ∧ i.reqCommand = j.reqCommand ∧ i.reqData = j.reqData) →
    (s.phase = .hs ∨ s.phase = .tx → i.txReady = j.txReady) →
    (s.phase = .wait → i.tick = j.tick) →
    (s.phase = .resp → i.rspReady = j.rspReady) →
    step { s with env := i :: rest } = step { s with env := j :: rest }

/-- At the end of a host program (R226), while the host offers no operation and the byte source no byte, nothing changes but the
environment's own progress. -/
def Obligations.BlockAtRestStaysAtRest : Prop :=
  ∀ s : State, Running s → AtRest s → (inputOf s).reqValid = false → (inputOf s).rxValid = false →
    step s = .next { s with env := s.env.tail, cycle := s.cycle + 1 }

/-! ### Invariants (10_state.md rule R29, 43_cycle.md rules R223, R224) -/

/-- The invariants of R29 hold in the reset state, of any legal parameters. -/
def Obligations.InvariantsHoldAtReset : Prop :=
  Inv State.reset ∧
  ∀ (p : Params) (env : List Inputs) (n : Nat), p.Legal → Inv (State.resetWith p env n)

/-- R224: the invariants of R29 hold in the reset state and every step keeps them. -/
def Obligations.EveryStepKeepsTheInvariants : Prop :=
  (∀ (p : Params) (env : List Inputs) (n : Nat), p.Legal → Inv (State.resetWith p env n)) ∧
  (∀ s t : State, Inv s → step s = .next t → Inv t)

/-- From reset, under any legal parameters and any environment, the block goes on for ever (R220: the step is total), in states that
meet the invariants, and its parameters never change (R36). -/
def Obligations.RunsFromResetGoOnUnderTheInvariants : Prop :=
  ∀ (p : Params) (env : List Inputs) (n : Nat), p.Legal →
    ∃ t, Host.Core.run core n (State.resetWith p env 0) = .next t ∧ Inv t ∧ t.params = p ∧ t.wasReset = true

/-- R223: no step exceeds a capacity. -/
def Obligations.CapacityIsNeverExceeded : Prop :=
  ∀ s t : State, (∀ d ∈ s.params.rxbufDepth, s.rxbuf.length ≤ d) → (∀ d ∈ s.params.respqDepth, s.respq.length ≤ d) →
    step s = .next t →
    (∀ d ∈ s.params.rxbufDepth, t.rxbuf.length ≤ d) ∧ (∀ d ∈ s.params.respqDepth, t.respq.length ≤ d)

/-! ### The reader's laws (41_reader.md section 2) -/

/-- The defining equation of RESYNC (R147). -/
def Obligations.ResyncUnfoldsAsTheSourceLoop : Prop :=
  ∀ (cm : Bool) (l : List Byte),
    resync cm l =
      if l.length < 9 then ([], l)
      else
        match decodeFrame cm (l.take 9) with
        | .ok f => (f :: (resync cm (l.drop 9)).1, (resync cm (l.drop 9)).2)
        | .err _ => resync cm (l.drop 1)

/-- The equivalence with the source's loop (R147): over any number of cycles in which the transport stays open, from any buffer, the
frames published and those the buffer still holds are exactly RESYNC's, whatever the timing of the bytes, the stalls, the holds
and the host. -/
def Obligations.ReaderRunAgreesWithResync : Prop :=
  ∀ (n : Nat) (s t : State), OpenThroughout n s → Host.Core.run core n s = .next t →
    resync s.params.checkMagic (s.rxbuf ++ appendedDuring n s) =
      (publishedDuring n s ++ (resync s.params.checkMagic t.rxbuf).1, (resync s.params.checkMagic t.rxbuf).2)

/-- Once as many cycles as there were bytes buffered have brought no byte, with room in `respq`, the reader has finished the loop
(R147, consequence 3). -/
def Obligations.DrainedReaderHasFinishedResync : Prop :=
  ∀ (n : Nat) (s t : State), OpenThroughout n s → RoomThroughout n s → s.rxbuf.length ≤ n → appendedDuring n s = [] →
    Host.Core.run core n s = .next t →
    publishedDuring n s = (resync s.params.checkMagic s.rxbuf).1 ∧ t.rxbuf = (resync s.params.checkMagic s.rxbuf).2 ∧
      t.rxbuf.length < 9

/-- Resync after a garbage prefix under its side condition (R148): every garbage byte is one failed window and the one frame follows. -/
def Obligations.GarbagePrefixIsSkippedByteByByte : Prop :=
  ∀ (cm : Bool) (c : Byte) (d : Word32) (g : List Byte),
    (∀ i < g.length, ∀ f, decodeFrame cm (((g ++ (encodeFrame c d).toList).drop i).take 9) ≠ .ok f) →
    ∀ i ≤ g.length,
      resync cm ((g ++ (encodeFrame c d).toList).drop i) =
        ([{ m0 := 0xA5, m1 := 0xAA, m2 := 0xAA, command := c, data := d, checksum := checksum c d }], [])

/-- Two frames with garbage between them, under the side condition (R149). -/
def Obligations.TwoFramesSurviveGarbageBetweenThem : Prop :=
  ∀ (cm : Bool) (c1 c2 : Byte) (d1 d2 : Word32) (g : List Byte),
    (∀ i < g.length, ∀ f,
      decodeFrame cm ((((encodeFrame c1 d1).toList ++ g ++ (encodeFrame c2 d2).toList).drop (9 + i)).take 9) ≠ .ok f) →
    resync cm ((encodeFrame c1 d1).toList ++ g ++ (encodeFrame c2 d2).toList) =
      ([{ m0 := 0xA5, m1 := 0xAA, m2 := 0xAA, command := c1, data := d1, checksum := checksum c1 d1 },
        { m0 := 0xA5, m1 := 0xAA, m2 := 0xAA, command := c2, data := d2, checksum := checksum c2 d2 }], [])

/-- R151: the rule's two counter-examples, in which a spurious frame is published and the true one lost. -/
def Obligations.GarbageCanMakeSpuriousFrames : Prop :=
  resync false ([0x22, 0x6F] ++ (encodeFrame 0x55 0x3C085A91).toList) =
    ([{ m0 := 0x6F, m1 := 0xA5, m2 := 0xAA, command := 0xAA, data := 0x085A9155, checksum := 0x3C }], [0xAA]) ∧
  resync true ([0x22, 0x6F] ++ (encodeFrame 0x55 0x3C085A91).toList) =
    ([{ m0 := 0xA5, m1 := 0xAA, m2 := 0xAA, command := 0x55, data := 0x3C085A91, checksum := 0xAA }], []) ∧
  (∀ cm, resync cm ([0xA5, 0xAA, 0xAA] ++ (encodeFrame 0x00 0x0000A500).toList) =
    ([{ m0 := 0xA5, m1 := 0xAA, m2 := 0xAA, command := 0xA5, data := 0x0000AAAA, checksum := 0xA5 }], [0x00, 0x00, 0xA5]))

/-- R150: while `respq` never fills at most nine bytes are buffered, so a depth of ten or more never refuses a byte while open, and a
depth of nine refuses one in every cycle that starts with nine bytes. -/
def Obligations.ReaderBuffersAtMostNineBytes : Prop :=
  (∀ (n : Nat) (s t : State), s.rxbuf.length ≤ 9 → RoomThroughout n s → Host.Core.run core n s = .next t →
    t.rxbuf.length ≤ 9) ∧
  (∀ s t : State, Running s → s.opened = true → hasRoom s.params.respqDepth s.respq.length = true → step s = .next t →
    (9 ≤ s.rxbuf.length → t.rxbuf.length ≤ s.rxbuf.length) ∧
    (s.rxbuf.length < 9 → t.rxbuf.length ≤ s.rxbuf.length + 1)) ∧
  (∀ s : State, s.rxbuf.length ≤ 9 → (∀ d ∈ s.params.rxbufDepth, 10 ≤ d) → (outputs s false).rxReady = true) ∧
  (∀ s : State, s.opened = true → s.params.rxbufDepth = some 9 → s.rxbuf.length = 9 → (outputs s false).rxReady = false)

/-! ### The response queue and response pairing (20_memory.md section 5, 42_transactor.md section 4) -/

/-- `respq` is first-in first-out (R69, R71): over any number of cycles in which the transport stays open, what was queued and what
was published is what was taken and what is left, in order; and a frame taken is the response of the operation that took it. -/
def Obligations.ResponseQueueIsFirstInFirstOut : Prop :=
  (∀ (n : Nat) (s t : State), OpenThroughout n s → Host.Core.run core n s = .next t →
    s.respq ++ publishedDuring n s = takenDuring n s ++ t.respq) ∧
  (∀ (s t : State) (f : Frame), step s = .next t → takenFrame s = [f] →
    s.respq.head? = some f ∧ t.phase = .resp ∧ t.rspStatus = .frame ∧ t.rspFrame = f)

/-- A TRANSACT returns the oldest frame that was queued when it was accepted, stale or not (R183), after sending its own nine bytes;
with a ready sink its response is offered eleven cycles after its acceptance began (R186). -/
def Obligations.TransactReturnsTheOldestQueuedFrame : Prop :=
  ∀ (s : State) (c : Byte) (d : Word32) (f : Frame) (q : List Frame) (i0 : Inputs) (l rest : List Inputs),
    s.wasReset = true → s.phase = .idle → s.opened = true → s.respq = f :: q → s.env = i0 :: (l ++ rest) →
    i0.rst = false → i0.reqValid = true → decodeRequest (requestWord i0) = .transact c d →
    l.length = 10 → (∀ i ∈ l, i.rst = false ∧ i.txReady = true) →
    ∃ t, Host.Core.run core 11 s = .next t ∧ t.phase = .resp ∧ t.rspStatus = .frame ∧ t.rspFrame = f ∧
      sentDuring 11 s = (encodeFrame c d).toList

/-- The hangs the model must admit (R185, R277): while the sink is never ready the block stays in HS or TX, and while neither a tick
nor a frame comes it stays in WAIT, for any number of cycles. -/
def Obligations.StalledBlockWaitsForEver : Prop :=
  (∀ (s : State) (l rest : List Inputs), s.wasReset = true → s.phase = .hs ∨ s.phase = .tx → s.env = l ++ rest →
    (∀ i ∈ l, i.rst = false ∧ i.txReady = false) →
    ∃ t, Host.Core.run core l.length s = .next t ∧ t.phase = s.phase ∧ t.txidx = s.txidx ∧ t.timer = s.timer ∧
      sentDuring l.length s = []) ∧
  (∀ (s : State) (l rest : List Inputs), s.wasReset = true → s.phase = .wait → NoFrameThroughout l.length s →
    s.env = l ++ rest → (∀ i ∈ l, i.rst = false ∧ i.tick = false) →
    ∃ t, Host.Core.run core l.length s = .next t ∧ t.phase = .wait ∧ t.timer = s.timer)

/-- Completion (R185): an accepted operation reaches RESP within any number of cycles without reset that brings, first, nine in which
the sink is ready and, after them, TIMEOUT_TICKS ticks, whatever bytes arrive meanwhile. -/
def Obligations.AcceptedOperationsComplete : Prop :=
  ∀ (s : State) (i0 : Inputs) (l1 l2 rest : List Inputs), s.wasReset = true → s.phase = .idle → 1 ≤ s.params.timeoutTicks →
    s.env = i0 :: (l1 ++ l2 ++ rest) → (∀ i ∈ i0 :: (l1 ++ l2), i.rst = false) → i0.reqValid = true →
    9 ≤ (l1.filter (·.txReady)).length → s.params.timeoutTicks ≤ (l2.filter (·.tick)).length →
    ∃ k ≤ 1 + l1.length + l2.length, ∃ t, Host.Core.run core k s = .next t ∧ t.phase = .resp
end

