-- ==== Sys2Proof/Laws/State.lean ====
section
/-! SUPPORT. Sys2Proof/Laws/State.lean: what each update of the state and of the transactor's control record leaves in each field,
so that no proof unfolds a record update. -/

namespace Sys2Proof.Machine

section Edge
variable (s : State) (offer : Option Byte) (sc : Scan) (c : Ctl)

@[simp] theorem edge_opened : (edge s offer sc c).opened = c.opened := rfl
@[simp] theorem edge_phase : (edge s offer sc c).phase = c.phase := rfl
@[simp] theorem edge_txbuf : (edge s offer sc c).txbuf = c.txbuf := rfl
@[simp] theorem edge_txidx : (edge s offer sc c).txidx = c.txidx := rfl
@[simp] theorem edge_timer : (edge s offer sc c).timer = c.timer := rfl
@[simp] theorem edge_rspStatus : (edge s offer sc c).rspStatus = c.rspStatus := rfl
@[simp] theorem edge_rspFrame : (edge s offer sc c).rspFrame = c.rspFrame := rfl
@[simp] theorem edge_params : (edge s offer sc c).params = s.params := rfl
@[simp] theorem edge_env : (edge s offer sc c).env = s.env.tail := rfl
@[simp] theorem edge_cycle : (edge s offer sc c).cycle = s.cycle + 1 := rfl
@[simp] theorem edge_wasReset : (edge s offer sc c).wasReset = s.wasReset := rfl

/-- The buffer after a clock edge: what the scan left, then the byte accepted; nothing under `clear`. -/
@[simp] theorem edge_rxbuf :
    (edge s offer sc c).rxbuf = if c.clear then [] else sc.rxbuf ++ rxAppend s offer := rfl

/-- The queue after a clock edge: what the pop left, then the frame published; nothing under `clear`. -/
@[simp] theorem edge_respq :
    (edge s offer sc c).respq =
      if c.clear then [] else (if c.pop then s.respq.drop 1 else s.respq) ++ sc.publish.toList := by
  cases h : sc.publish <;> simp [edge, h, push, pop]

/-- A clock edge as one record: everything it writes. -/
theorem edge_eq :
    edge s offer sc c =
      { s with
        opened := c.opened, phase := c.phase, txbuf := c.txbuf, txidx := c.txidx, timer := c.timer,
        rspStatus := c.rspStatus, rspFrame := c.rspFrame,
        rxbuf := if c.clear then [] else sc.rxbuf ++ rxAppend s offer,
        respq := if c.clear then [] else (if c.pop then s.respq.drop 1 else s.respq) ++ sc.publish.toList,
        env := s.env.tail, cycle := s.cycle + 1 } := by
  have h := edge_respq s offer sc c
  unfold edge at h ⊢
  simpa only [State.mk.injEq, true_and, and_true] using h

end Edge

section Keep
variable (s : State)

@[simp] theorem ctlKeep_opened : (ctlKeep s).opened = s.opened := rfl
@[simp] theorem ctlKeep_phase : (ctlKeep s).phase = s.phase := rfl
@[simp] theorem ctlKeep_txbuf : (ctlKeep s).txbuf = s.txbuf := rfl
@[simp] theorem ctlKeep_txidx : (ctlKeep s).txidx = s.txidx := rfl
@[simp] theorem ctlKeep_timer : (ctlKeep s).timer = s.timer := rfl
@[simp] theorem ctlKeep_rspStatus : (ctlKeep s).rspStatus = s.rspStatus := rfl
@[simp] theorem ctlKeep_rspFrame : (ctlKeep s).rspFrame = s.rspFrame := rfl
@[simp] theorem ctlKeep_pop : (ctlKeep s).pop = false := rfl
@[simp] theorem ctlKeep_clear : (ctlKeep s).clear = false := rfl

end Keep

section Finish
variable (st : Status) (f : Frame) (c : Ctl)

@[simp] theorem finish_opened : (finish st f c).opened = c.opened := rfl
@[simp] theorem finish_phase : (finish st f c).phase = .resp := rfl
@[simp] theorem finish_txbuf : (finish st f c).txbuf = c.txbuf := rfl
@[simp] theorem finish_txidx : (finish st f c).txidx = c.txidx := rfl
@[simp] theorem finish_timer : (finish st f c).timer = c.timer := rfl
@[simp] theorem finish_rspStatus : (finish st f c).rspStatus = st := rfl
@[simp] theorem finish_rspFrame : (finish st f c).rspFrame = f := rfl
@[simp] theorem finish_pop : (finish st f c).pop = c.pop := rfl
@[simp] theorem finish_clear : (finish st f c).clear = c.clear := rfl

end Finish

section Reset
variable (s : State)

@[simp] theorem resetEdge_params : (resetEdge s).params = s.params := rfl
@[simp] theorem resetEdge_env : (resetEdge s).env = s.env.tail := rfl
@[simp] theorem resetEdge_cycle : (resetEdge s).cycle = s.cycle + 1 := rfl
@[simp] theorem resetEdge_wasReset : (resetEdge s).wasReset = true := rfl
@[simp] theorem resetEdge_opened : (resetEdge s).opened = false := rfl
@[simp] theorem resetEdge_rxbuf : (resetEdge s).rxbuf = [] := rfl
@[simp] theorem resetEdge_respq : (resetEdge s).respq = [] := rfl

end Reset

/-! ### The ports -/

/-- The inputs of a cycle whose environment lists them. -/
@[simp] theorem inputOf_of_env (s : State) (inp : Inputs) (rest : List Inputs) (h : s.env = inp :: rest) :
    inputOf s = inp := by
  simp [inputOf, h]

/-- What RX appends (R142): at most the byte offered. -/
theorem rxAppend_length_le (s : State) (offer : Option Byte) : (rxAppend s offer).length ≤ 1 := by
  unfold rxAppend
  split <;> cases offer <;> simp

/-- A closed block appends nothing (R145). -/
theorem rxAppend_closed (s : State) (offer : Option Byte) (h : s.opened = false) : rxAppend s offer = [] := by
  simp [rxAppend, h]

/-- What a running cycle appends is the byte received while open (R61). -/
theorem rxAppend_eq_appendedByte (s : State) (h : (inputOf s).rst = false) :
    rxAppend s (rxOffer (inputOf s)) = appendedByte s := by
  cases ho : s.opened <;> simp [rxAppend, appendedByte, receivedByte, outputs, h, ho]

/-- A buffer of known depth has room below it. -/
@[simp] theorem hasRoom_some (d n : Nat) : hasRoom (some d) n = decide (n < d) := rfl

/-- An unbounded buffer always has room (R9). -/
@[simp] theorem hasRoom_none (n : Nat) : hasRoom none n = true := rfl

/-- Adding one element where there was room keeps the capacity (R223). -/
theorem within_succ_of_hasRoom {depth : Option Nat} {n : Nat} (h : hasRoom depth n = true) : Within depth (n + 1) := by
  intro d hd
  cases depth with
  | none => cases hd
  | some e => cases hd; simpa using h

/-- A shorter buffer is within the same capacity. -/
theorem Within.mono {depth : Option Nat} {m n : Nat} (h : Within depth n) (hmn : m ≤ n) : Within depth m :=
  fun d hd => hmn.trans (h d hd)

end Sys2Proof.Machine
end

