-- ==== Sys2Proof/Laws/Reader.lean ====
section
/-! SUPPORT. Sys2Proof/Laws/Reader.lean: what a scan step can do (41_reader.md rules R140, R143, R144), said once; and the unfolding
of the source's loop. -/

namespace Sys2Proof.Machine

/-- The scan steps there are, one constructor per case of R140, R143 and R144. -/
inductive ScanRow (s : State) : Scan → Prop where
  /-- closed: the reader is inactive -/
  | closed (ho : s.opened = false) : ScanRow s { rxbuf := s.rxbuf, publish := none }
  /-- fewer than nine bytes -/
  | short (ho : s.opened = true) (hl : s.rxbuf.length < 9) : ScanRow s { rxbuf := s.rxbuf, publish := none }
  /-- a valid window and room: publish it and drop nine bytes -/
  | publish (ho : s.opened = true) (hl : 9 ≤ s.rxbuf.length) (f : Frame)
      (hd : decodeFrame s.params.checkMagic (s.rxbuf.take 9) = .ok f)
      (hr : hasRoom s.params.respqDepth s.respq.length = true) : ScanRow s { rxbuf := s.rxbuf.drop 9, publish := some f }
  /-- a valid window and no room: hold -/
  | hold (ho : s.opened = true) (hl : 9 ≤ s.rxbuf.length) (f : Frame)
      (hd : decodeFrame s.params.checkMagic (s.rxbuf.take 9) = .ok f)
      (hr : hasRoom s.params.respqDepth s.respq.length = false) : ScanRow s { rxbuf := s.rxbuf, publish := none }
  /-- an invalid window: drop one byte -/
  | drop (ho : s.opened = true) (hl : 9 ≤ s.rxbuf.length) (e : DecodeError)
      (hd : decodeFrame s.params.checkMagic (s.rxbuf.take 9) = .err e) :
      ScanRow s { rxbuf := s.rxbuf.drop 1, publish := none }

/-- Every scan step is one of them. -/
theorem readerScan_row (s : State) : ScanRow s (readerScan s) := by
  unfold readerScan
  split
  · rename_i h
    split
    · rename_i f hd
      unfold scanFrame
      split
      · rename_i hr
        exact .publish h.1 h.2 f hd hr
      · rename_i hr
        exact .hold h.1 h.2 f hd (by simpa using hr)
    · rename_i e hd
      exact .drop h.1 h.2 e hd
  · rename_i h
    cases ho : s.opened with
    | false => exact .closed ho
    | true => exact .short ho (by simpa [ho, Config.frameLen] using h)

/-- A scan step never lengthens the buffer (R223). -/
theorem readerScan_length_le (s : State) : (readerScan s).rxbuf.length ≤ s.rxbuf.length := by
  have row := readerScan_row s
  generalize readerScan s = sc at row ⊢
  cases row <;> simp

/-- A frame is published only where `respq` had room at the start of the cycle (R144). -/
theorem readerScan_publish_room (s : State) (f : Frame) (h : (readerScan s).publish = some f) :
    hasRoom s.params.respqDepth s.respq.length = true := by
  have row := readerScan_row s
  generalize readerScan s = sc at h row
  cases row with
  | publish ho hl g hd hr => exact hr
  | closed | short | hold | drop => cases h

/-- Nine bytes is what DECODE reads (R124). -/
theorem decodeFrame_ok_length {cm : Bool} {w : List Byte} {f : Frame} (h : decodeFrame cm w = .ok f) : w.length = 9 := by
  unfold decodeFrame at h
  split at h
  · rfl
  · cases h

end Sys2Proof.Machine
end

