-- ==== Sys2Proof/Laws/Channel.lean ====
section
/-! SUPPORT. Sys2Proof/Laws/Channel.lean: what the transactor can do in one cycle, said once: the table of 43_cycle.md rule R222. -/

namespace Sys2Proof.Machine

/-- The rows of the table of R222, one constructor each. -/
inductive CtlRow (s : State) (inp : Inputs) : Ctl → Prop where
  | idle (hp : s.phase = .idle) (hr : inp.reqValid = false) : CtlRow s inp (ctlKeep s)
  | transact (hp : s.phase = .idle) (hr : inp.reqValid = true) (command : Byte) (data : Word32)
      (hi : decodeRequest (requestWord inp) = .transact command data) (ho : s.opened = true) :
      CtlRow s inp { ctlKeep s with txbuf := encodeFrame command data, txidx := 0, phase := .tx }
  | transactClosed (hp : s.phase = .idle) (hr : inp.reqValid = true) (command : Byte) (data : Word32)
      (hi : decodeRequest (requestWord inp) = .transact command data) (ho : s.opened = false) :
      CtlRow s inp (finish .notOpen Frame.zero (ctlKeep s))
  | pollClosed (hp : s.phase = .idle) (hr : inp.reqValid = true) (hi : decodeRequest (requestWord inp) = .poll)
      (ho : s.opened = false) : CtlRow s inp (finish .notOpen Frame.zero (ctlKeep s))
  | pollFrame (hp : s.phase = .idle) (hr : inp.reqValid = true) (hi : decodeRequest (requestWord inp) = .poll)
      (ho : s.opened = true) (f : Frame) (q : List Frame) (hq : s.respq = f :: q) :
      CtlRow s inp (finish .frame f { ctlKeep s with pop := true })
  | pollEmpty (hp : s.phase = .idle) (hr : inp.reqValid = true) (hi : decodeRequest (requestWord inp) = .poll)
      (ho : s.opened = true) (hq : s.respq = []) : CtlRow s inp (finish .empty Frame.zero (ctlKeep s))
  | openClosed (hp : s.phase = .idle) (hr : inp.reqValid = true) (hi : decodeRequest (requestWord inp) = .openPort)
      (ho : s.opened = false) : CtlRow s inp { ctlKeep s with opened := true, txidx := 0, phase := .hs }
  | openIllegal (hp : s.phase = .idle) (hr : inp.reqValid = true) (hi : decodeRequest (requestWord inp) = .openPort)
      (ho : s.opened = true) : CtlRow s inp (finish .illegal Frame.zero (ctlKeep s))
  | closeOpen (hp : s.phase = .idle) (hr : inp.reqValid = true) (hi : decodeRequest (requestWord inp) = .closePort)
      (ho : s.opened = true) : CtlRow s inp (finish .done Frame.zero { ctlKeep s with opened := false, clear := true })
  | closeClosed (hp : s.phase = .idle) (hr : inp.reqValid = true) (hi : decodeRequest (requestWord inp) = .closePort)
      (ho : s.opened = false) : CtlRow s inp (finish .done Frame.zero (ctlKeep s))
  | hsStall (hp : s.phase = .hs) (ht : inp.txReady = false) : CtlRow s inp (ctlKeep s)
  | hsLast (hp : s.phase = .hs) (ht : inp.txReady = true) (hx : s.txidx = 2) :
      CtlRow s inp (finish .done Frame.zero { ctlKeep s with txidx := 0 })
  | hsNext (hp : s.phase = .hs) (ht : inp.txReady = true) (hx : s.txidx ≠ 2) :
      CtlRow s inp { ctlKeep s with txidx := s.txidx + 1 }
  | txStall (hp : s.phase = .tx) (ht : inp.txReady = false) : CtlRow s inp (ctlKeep s)
  | txLast (hp : s.phase = .tx) (ht : inp.txReady = true) (hx : s.txidx = 8) :
      CtlRow s inp { ctlKeep s with txidx := 0, timer := 0, phase := .wait }
  | txNext (hp : s.phase = .tx) (ht : inp.txReady = true) (hx : s.txidx ≠ 8) :
      CtlRow s inp { ctlKeep s with txidx := s.txidx + 1 }
  | waitFrame (hp : s.phase = .wait) (f : Frame) (q : List Frame) (hq : s.respq = f :: q) :
      CtlRow s inp (finish .frame f { ctlKeep s with pop := true, timer := 0 })
  | waitTimeout (hp : s.phase = .wait) (hq : s.respq = []) (ht : inp.tick = true)
      (hx : s.timer + 1 = s.params.timeoutTicks) :
      CtlRow s inp (finish .timeout Frame.zero { ctlKeep s with timer := 0 })
  | waitTick (hp : s.phase = .wait) (hq : s.respq = []) (ht : inp.tick = true)
      (hx : s.timer + 1 ≠ s.params.timeoutTicks) : CtlRow s inp { ctlKeep s with timer := s.timer + 1 }
  | waitNothing (hp : s.phase = .wait) (hq : s.respq = []) (ht : inp.tick = false) : CtlRow s inp (ctlKeep s)
  | respTaken (hp : s.phase = .resp) (hr : inp.rspReady = true) : CtlRow s inp { ctlKeep s with phase := .idle }
  | respHeld (hp : s.phase = .resp) (hr : inp.rspReady = false) : CtlRow s inp (ctlKeep s)

/-- A request word is one of the four host operations (30_encoding.md rule R93). -/
theorem decodeRequest_cases (w : BitVec 42) :
    decodeRequest w = .transact (w.extractLsb' 32 8) (w.extractLsb' 0 32) ∨ decodeRequest w = .poll ∨
      decodeRequest w = .openPort ∨ decodeRequest w = .closePort := by
  unfold decodeRequest
  dsimp only
  split
  · exact .inl rfl
  · split
    · exact .inr (.inl rfl)
    · split
      · exact .inr (.inr (.inl rfl))
      · exact .inr (.inr (.inr rfl))

/-- The transactor's step in a cycle that accepts nothing is a row of the table: IDLE, or one of the phases' rows. -/
theorem ctlPhase_row (s : State) (inp : Inputs) (h : s.phase = .idle → inp.reqValid = false) :
    CtlRow s inp (ctlPhase s inp) := by
  unfold ctlPhase
  split
  · rename_i hp
    exact .idle hp (h hp)
  · rename_i hp
    cases ht : inp.txReady with
    | false => simpa [ctlHs, txFire, ht] using CtlRow.hsStall hp ht
    | true =>
      by_cases hx : s.txidx = 2
      · simpa [ctlHs, txFire, txValid, hp, ht, hx] using CtlRow.hsLast hp ht hx
      · simpa [ctlHs, txFire, txValid, hp, ht, hx] using CtlRow.hsNext hp ht hx
  · rename_i hp
    cases ht : inp.txReady with
    | false => simpa [ctlTx, txFire, ht] using CtlRow.txStall hp ht
    | true =>
      by_cases hx : s.txidx = 8
      · simpa [ctlTx, txFire, txValid, hp, ht, hx] using CtlRow.txLast hp ht hx
      · simpa [ctlTx, txFire, txValid, hp, ht, hx] using CtlRow.txNext hp ht hx
  · rename_i hp
    cases hq : s.respq with
    | cons f q => simpa [ctlWait, hq] using CtlRow.waitFrame (inp := inp) hp f q hq
    | nil =>
      cases ht : inp.tick with
      | false => simpa [ctlWait, hq, ht] using CtlRow.waitNothing hp hq ht
      | true =>
        by_cases hx : s.timer + 1 = s.params.timeoutTicks
        · simpa [ctlWait, hq, ht, hx] using CtlRow.waitTimeout hp hq ht hx
        · simpa [ctlWait, hq, ht, hx] using CtlRow.waitTick hp hq ht hx
  · rename_i hp
    cases hr : inp.rspReady with
    | false => simpa [ctlResp, rspFire, hr] using CtlRow.respHeld hp hr
    | true => simpa [ctlResp, rspFire, rspValid, hp, hr] using CtlRow.respTaken hp hr

/-- Every step of the transactor is a row of the table (R222: "The table is complete"). -/
theorem ctl_row (s : State) (inp : Inputs) : CtlRow s inp (ctl s inp) := by
  unfold ctl
  split
  · rename_i h
    have hr : inp.reqValid = true := by simp_all [reqFire]
    have hp : s.phase = .idle := by simpa [reqFire, reqReady, hr] using h
    rcases decodeRequest_cases (requestWord inp) with hi | hi | hi | hi <;> rw [hi]
    · cases ho : s.opened with
      | true => simpa [acceptOp, ctlTransact, ho] using CtlRow.transact hp hr _ _ hi ho
      | false => simpa [acceptOp, ctlTransact, ho] using CtlRow.transactClosed hp hr _ _ hi ho
    · cases ho : s.opened with
      | false => simpa [acceptOp, ctlPoll, ho] using CtlRow.pollClosed hp hr hi ho
      | true =>
        cases hq : s.respq with
        | nil => simpa [acceptOp, ctlPoll, ho, hq] using CtlRow.pollEmpty hp hr hi ho hq
        | cons f q => simpa [acceptOp, ctlPoll, ho, hq] using CtlRow.pollFrame hp hr hi ho f q hq
    · cases ho : s.opened with
      | false => simpa [acceptOp, ctlOpen, ho] using CtlRow.openClosed hp hr hi ho
      | true => simpa [acceptOp, ctlOpen, ho] using CtlRow.openIllegal hp hr hi ho
    · cases ho : s.opened with
      | true => simpa [acceptOp, ctlClose, ho] using CtlRow.closeOpen hp hr hi ho
      | false => simpa [acceptOp, ctlClose, ho] using CtlRow.closeClosed hp hr hi ho
  · rename_i h
    exact ctlPhase_row s inp fun hp => by simpa [reqFire, reqReady, hp] using h

/-- Outside IDLE the transactor's step is its phase step: no operation is accepted (R171). -/
theorem ctl_of_busy (s : State) (inp : Inputs) (h : s.phase ≠ .idle) : ctl s inp = ctlPhase s inp := by
  simp [ctl, reqFire, reqReady, h]

end Sys2Proof.Machine
end

