-- ==== Sys2Proof/Laws/Step.lean ====
section
/-! SUPPORT. Sys2Proof/Laws/Step.lean: what one step can do, said once: a reset edge, or one clock cycle (43_cycle.md rule R221),
whichever of the instructions met in the cycle the step goes through. -/

namespace Sys2Proof.Machine

/-- An accepted operation runs as the plain cycle that accepts it. -/
theorem exec_of_metRequest (s : State) (i : Instr) (h : i ∈ metRequest s) : exec i s = .next (clockCycle s) := by
  unfold metRequest at h
  split at h
  · rename_i hf
    have hi : i = decodeRequest (requestWord (inputOf s)) := by simpa using h
    have hrr : reqReady s = true := by simp_all [reqFire]
    have hc : ctl s (inputOf s) = acceptOp s (inputOf s) i := by simp [ctl, hf, hi]
    unfold clockCycle
    rw [hc]
    rcases decodeRequest_cases (requestWord (inputOf s)) with hd | hd | hd | hd <;> rw [hd] at hi <;> subst hi <;>
      simp [exec, execTransact, execPoll, execOpen, execClose, offered, hrr, acceptOp]
  · cases h

/-- The handshake met in phase HS runs as the plain cycle. -/
theorem exec_of_metHandshake (s : State) (i : Instr) (h : i ∈ metHandshake s) : exec i s = .next (clockCycle s) := by
  unfold metHandshake at h
  split at h
  · rename_i hp
    have hi : i = .handshake := by simpa using h
    subst hi
    have hc : ctl s (inputOf s) = ctlHs s (inputOf s) := by
      rw [ctl_of_busy s _ (by simp [hp])]
      simp [ctlPhase, hp]
    simp [exec, execHandshake, clockCycle, hp, hc]
  · cases h

/-- The frame met in the window runs as the plain cycle. -/
theorem exec_of_metFrame (s : State) (i : Instr) (h : i ∈ metFrame s) : exec i s = .next (clockCycle s) := by
  unfold metFrame decode at h
  split at h
  · rename_i hw
    cases hd : decodeFrame s.params.checkMagic (window s) with
    | err e => simp [hd] at h
    | ok f =>
      have hi : i = .frame f := by simpa [hd] using h
      subst hi
      have hs : readerScan s = scanFrame s f := by simp [readerScan, hw, hd]
      simp [exec, execFrame, clockCycle, hw.1, hs]
  · cases h

/-- The command byte met on RX runs as the plain cycle. -/
theorem exec_of_metCommand (s : State) (i : Instr) (h : i ∈ metCommand s) : exec i s = .next (clockCycle s) := by
  unfold metCommand at h
  cases ho : rxOffer (inputOf s) with
  | none => simp [ho] at h
  | some b =>
    have hb : decodeCommand b = some i := by
      cases hd : decodeCommand b with
      | none => simp [ho, decode, hd] at h
      | some j =>
        have : i = j := by simpa [ho, decode, hd] using h
        rw [this]
    unfold decodeCommand at hb
    split at hb
    · rename_i hv; cases hb; simp [exec, execCmdOk, receiveByte, clockCycle, ho, hv]
    · split at hb
      · rename_i hv; cases hb; simp [exec, execCmdGetState, receiveByte, clockCycle, ho, hv]
      · split at hb
        · rename_i hv; cases hb; simp [exec, execCmdError, receiveByte, clockCycle, ho, hv]
        · cases hb

/-- Whatever the block meets in a cycle, running it is running that cycle. -/
theorem exec_of_met (s : State) (i : Instr) (h : i ∈ met s) : exec i s = .next (clockCycle s) := by
  simp only [met, List.mem_append] at h
  obtain ((h | h) | h) | h := h
  · exact exec_of_metRequest s i h
  · exact exec_of_metHandshake s i h
  · exact exec_of_metFrame s i h
  · exact exec_of_metCommand s i h

/-- A step with rst = 1 (R270). -/
theorem step_of_rst (s : State) (h : (inputOf s).rst = true) : step s = .next (resetEdge s) := by
  simp [step, h]

/-- A step of a running block is one clock cycle (R221). -/
theorem step_of_running (s : State) (h : Running s) : step s = .next (clockCycle s) := by
  unfold step
  rw [h.1, h.2]
  cases hf : fetch s with
  | none => rfl
  | some i => exact exec_of_met s i (List.mem_of_mem_head? hf)

/-- A step of a block never reset (R38). -/
theorem step_of_unreset (s : State) (h : (inputOf s).rst = false) (hw : s.wasReset = false) : step s = .fault .unreset := by
  simp [step, h, hw]

/-- What a step can do: a reset edge, or a clock cycle of a running block. -/
theorem step_cases {s t : State} (h : step s = .next t) :
    ((inputOf s).rst = true ∧ t = resetEdge s) ∨ (Running s ∧ t = clockCycle s) := by
  cases hr : (inputOf s).rst with
  | true =>
    rw [step_of_rst s hr] at h
    cases h
    exact .inl ⟨rfl, rfl⟩
  | false =>
    cases hw : s.wasReset with
    | true =>
      rw [step_of_running s ⟨hr, hw⟩] at h
      cases h
      exact .inr ⟨⟨hr, hw⟩, rfl⟩
    | false =>
      rw [step_of_unreset s hr hw] at h
      cases h

/-- A run of one more cycle. -/
theorem run_succ_of_step {n : Nat} {s t : State} (h : step s = .next t) :
    Host.Core.run core (n + 1) s = Host.Core.run core n t := by
  have hc : core.step s = .next t := h
  simp only [Host.Core.run, hc]

end Sys2Proof.Machine
end

