-- ==== Sys2Proof/Machine/Bench.lean ====
section
/-! DEFINITION. Sys2Proof/Machine/Bench.lean: a host program and its environment, as 30_encoding.md rules R98 to R100 write them,
driving the block cycle by cycle through its ports, and the end of a program (43_cycle.md rule R226). The block itself is
`step`; nothing here is state of the block. -/

namespace Sys2Proof.Machine

/-- A line of a host program (R98) or a pseudo-operation (R100). -/
inductive HostLine where
  | transact (command : Byte) (data : Word32)
  | poll
  | openPort
  | closePort
  /-- repeat POLL until a POLL returns EMPTY -/
  | drain
  /-- TRANSACTs in order, up to the first response that is not FRAME with command OK -/
  | batch (items : List (Byte × Word32))
deriving DecidableEq, Repr

/-- An input that a directive of R99 can override. -/
inductive Signal where
  | txReady
  | rspReady
  | tick
deriving DecidableEq, Repr

/-- `<signal> = <v> in cycles <a>..<b>` (R99). -/
structure Override where
  signal : Signal
  value  : Bool
  first  : Nat
  last   : Nat
deriving DecidableEq, Repr

/-- The environment's directives (R99) but for `rx`, whose bytes are used up by a run. -/
structure Directives where
  tickEvery : Option Nat
  overrides : List Override
  resets    : List Nat
deriving DecidableEq, Repr

/-- The block with its host and its byte source. -/
structure Bench where
  machine : State
  /-- the lines still to be done, each with the cycle before which it is not offered (`@<n>`, else 0) -/
  lines   : List (Nat × HostLine)
  /-- an operation has been accepted and its response not yet taken -/
  waiting : Bool
  /-- `@<n> rx <bytes>`: the bytes still to be offered -/
  bytes   : List (Nat × List Byte)
deriving DecidableEq, Repr

/-- The real operation a line offers next (R98, R100); an empty BATCH offers none. -/
def HostLine.operation : HostLine → Option Instr
  | .transact command data => some (.transact command data)
  | .poll => some .poll
  | .openPort => some .openPort
  | .closePort => some .closePort
  | .drain => some .poll
  | .batch [] => none
  | .batch ((command, data) :: _) => some (.transact command data)

/-- What is left of a line when the response to its operation is taken (R98, R100). -/
def HostLine.afterResponse (line : HostLine) (status : Status) (f : Frame) : Option HostLine :=
  match line with
  | .transact _ _ => none
  | .poll => none
  | .openPort => none
  | .closePort => none
  | .drain => if status = .empty then none else some .drain
  | .batch items => if status = .frame ∧ f.command = 0x00 then some (.batch (items.drop 1)) else none

/-- Lines that offer nothing (an empty BATCH) are done. -/
def dropDone : List (Nat × HostLine) → List (Nat × HostLine)
  | [] => []
  | (n, line) :: rest => if line.operation.isNone then dropDone rest else (n, line) :: rest

/-- The lines once the first line's response is taken. -/
def afterResponse (lines : List (Nat × HostLine)) (status : Status) (f : Frame) : List (Nat × HostLine) :=
  match dropDone lines with
  | [] => []
  | (n, line) :: rest =>
    match line.afterResponse status f with
    | none => rest
    | some line' => (n, line') :: rest

/-- The request word the host offers in cycle `n`, if any (R98). -/
def offeredWord (b : Bench) (n : Nat) : Option (BitVec 42) :=
  if b.waiting then none
  else
    match dropDone b.lines with
    | [] => none
    | (from_, line) :: _ =>
      if from_ ≤ n then
        match line.operation.map encode with
        | some (.request word) => some word
        | some (.frame _) => none
        | some (.handshake _) => none
        | some (.command _) => none
        | none => none
      else none

/-- The cycle named by the earliest rx directive with a byte left: the directive whose turn it is (R99, log 12). -/
def rxTurn : List (Nat × List Byte) → Option Nat
  | [] => none
  | (_, []) :: rest => rxTurn rest
  | (from_, _ :: _) :: rest =>
    match rxTurn rest with
    | none => some from_
    | some k => some (min from_ k)

/-- The oldest byte left of the first listed directive for cycle `k`. -/
def rxHead (k : Nat) : List (Nat × List Byte) → Option Byte
  | [] => none
  | (_, []) :: rest => rxHead k rest
  | (from_, b :: _) :: rest => if from_ = k then some b else rxHead k rest

/-- The bytes left when that byte has been accepted. -/
def rxTail (k : Nat) : List (Nat × List Byte) → List (Nat × List Byte)
  | [] => []
  | (_, []) :: rest => rxTail k rest
  | (from_, b :: bs) :: rest => if from_ = k then (from_, bs) :: rest else (from_, b :: bs) :: rxTail k rest

/-- The byte the source offers in cycle `n`, if any: the next of the directive that began earliest (R99). A directive whose cycle
has not come holds back none that has begun, wherever it is listed. -/
def offeredByte (bytes : List (Nat × List Byte)) (n : Nat) : Option Byte :=
  match rxTurn bytes with
  | none => none
  | some k => if k ≤ n then rxHead k bytes else none

/-- The bytes left when the byte offered has been accepted (R99). -/
def afterByte (bytes : List (Nat × List Byte)) : List (Nat × List Byte) :=
  match rxTurn bytes with
  | none => []
  | some k => rxTail k bytes

/-- The value of an input in cycle `n` under the directives, the last that covers it winning (R99). -/
def Directives.value (d : Directives) (signal : Signal) (n : Nat) (otherwise : Bool) : Bool :=
  d.overrides.foldl (fun v o => if o.signal = signal ∧ o.first ≤ n ∧ n ≤ o.last then o.value else v) otherwise

/-- Whether cycle `n` is one of `tick every <p>` (R99). -/
def Directives.ticksAt (d : Directives) (n : Nat) : Bool :=
  match d.tickEvery with
  | none => false
  | some p => n % p == 0

/-- The inputs of the coming cycle (R98, R99); its number is the block's `cycle`. -/
def Bench.inputs (d : Directives) (b : Bench) : Inputs :=
  let n := b.machine.cycle
  let word := offeredWord b n
  { rst := d.resets.contains n
    rxValid := (offeredByte b.bytes n).isSome
    rxByte := (offeredByte b.bytes n).getD 0
    txReady := d.value .txReady n true
    tick := d.value .tick n (d.ticksAt n)
    reqValid := word.isSome
    reqOp := (word.getD 0).extractLsb' 40 2
    reqCommand := (word.getD 0).extractLsb' 32 8
    reqData := (word.getD 0).extractLsb' 0 32
    rspReady := d.value .rspReady n true }

/-- One cycle of block, host and byte source. The host learns of the acceptance and of the response from the ports alone. -/
def Bench.cycle (d : Directives) (b : Bench) : Host.Outcome Bench Fault Refusal :=
  let inp := b.inputs d
  let out := outputs b.machine inp.rst
  match step { b.machine with env := [inp] } with
  | .next t =>
    .next
      { machine := t
        lines := if out.rspValid && inp.rspReady then afterResponse b.lines b.machine.rspStatus b.machine.rspFrame else b.lines
        waiting := if out.rspValid && inp.rspReady then false else b.waiting || (out.reqReady && inp.reqValid)
        bytes := if out.rxReady && inp.rxValid then afterByte b.bytes else b.bytes }
  | .fault r => .fault r
  | .refused r => .refused r

/-- The start of a program: cycle 1, after the reset edge of cycle 0 (R99). -/
def Bench.start (p : Params) (lines : List (Nat × HostLine)) (bytes : List (Nat × List Byte)) : Bench :=
  { machine := State.resetWith p [] 1, lines := lines, waiting := false, bytes := bytes }

/-- `n` cycles. -/
def Bench.run (d : Directives) : Nat → Bench → Host.Outcome Bench Fault Refusal
  | 0, b => .next b
  | n + 1, b =>
    match b.cycle d with
    | .next b' => b'.run d n
    | .fault r => .fault r
    | .refused r => .refused r

/-- The conditions of R226: nothing left to issue, take or offer, and the block at rest. They can hold again in later cycles; the end
state of a program is the first (`Bench.EndsAt`). -/
def Bench.Ended (b : Bench) : Prop :=
  dropDone b.lines = [] ∧ b.waiting = false ∧ (∀ e ∈ b.bytes, e.2 = []) ∧ AtRest b.machine

/-- The end state of the program that starts in `b` (R226): the state `e` at the start of the first cycle that meets all the
conditions, `n` cycles on. -/
def Bench.EndsAt (d : Directives) (b : Bench) (n : Nat) (e : Bench) : Prop :=
  b.run d n = .next e ∧ e.Ended ∧ ∀ k < n, ∀ u, b.run d k = .next u → ¬ u.Ended

/-- DECODE gave a frame. -/
def decodesOk : DecodeResult → Bool
  | .ok _ => true
  | .err _ => false

/-- The conditions of R226 as a test (`Bench.isEnded_iff` in Laws/Bench.lean). -/
def Bench.isEnded (b : Bench) : Bool :=
  (dropDone b.lines).isEmpty && !b.waiting && b.bytes.all (fun e => e.2.isEmpty) && b.machine.phase == .idle &&
    (decide (b.machine.rxbuf.length < Config.frameLen) ||
      (decodesOk (decodeFrame b.machine.params.checkMagic (window b.machine)) &&
        !hasRoom b.machine.params.respqDepth b.machine.respq.length))

/-- The end state (R226) of a program that ends within `n` cycles, with the number of cycles it took. -/
def Bench.endState (d : Directives) : Nat → Bench → Option (Nat × Bench)
  | 0, b => if b.isEnded then some (0, b) else none
  | n + 1, b =>
    if b.isEnded then some (0, b)
    else
      match b.cycle d with
      | .next b' => (b'.endState d n).map fun r => (r.1 + 1, r.2)
      | .fault _ => none
      | .refused _ => none

end Sys2Proof.Machine
end

