-- ==== Sys2Proof/Laws/Bench.lean ====
section
/-! SUPPORT. Sys2Proof/Laws/Bench.lean: the byte source of 30_encoding.md rule R99 and the end of a host program of 43_cycle.md rule
R226, said once each. -/

namespace Sys2Proof.Machine

/-! ### The byte source (R99) -/

/-- No directive has the turn exactly when every byte has been accepted. -/
theorem rxTurn_eq_none_iff (bytes : List (Nat × List Byte)) : rxTurn bytes = none ↔ ∀ e ∈ bytes, e.2 = [] := by
  induction bytes with
  | nil => simp [rxTurn]
  | cons x rest ih =>
    obtain ⟨m, bs⟩ := x
    cases bs with
    | nil => simpa [rxTurn] using ih
    | cons b bs => cases h : rxTurn rest <;> simp [rxTurn, h]

/-- The directive whose turn it is has a byte left. -/
theorem rxTurn_mem {bytes : List (Nat × List Byte)} {k : Nat} (h : rxTurn bytes = some k) :
    ∃ e ∈ bytes, e.1 = k ∧ e.2 ≠ [] := by
  induction bytes generalizing k with
  | nil => cases h
  | cons x rest ih =>
    obtain ⟨m, bs⟩ := x
    cases bs with
    | nil =>
      obtain ⟨e, he, hk⟩ := ih h
      exact ⟨e, List.mem_cons_of_mem _ he, hk⟩
    | cons b bs =>
      cases ht : rxTurn rest with
      | none => exact ⟨_, List.mem_cons_self, by simpa [rxTurn, ht] using h, by simp⟩
      | some j =>
        obtain rfl : min m j = k := by simpa [rxTurn, ht] using h
        rcases Nat.le_total m j with hmj | hjm
        · exact ⟨_, List.mem_cons_self, (Nat.min_eq_left hmj).symm, by simp⟩
        · obtain ⟨e, he, hk, hne⟩ := ih ht
          exact ⟨e, List.mem_cons_of_mem _ he, hk.trans (Nat.min_eq_right hjm).symm, hne⟩

/-- It began no later than any other with a byte left. -/
theorem rxTurn_le {bytes : List (Nat × List Byte)} {k : Nat} (h : rxTurn bytes = some k) (e : Nat × List Byte)
    (he : e ∈ bytes) (hne : e.2 ≠ []) : k ≤ e.1 := by
  induction bytes generalizing k with
  | nil => cases he
  | cons x rest ih =>
    obtain ⟨m, bs⟩ := x
    cases bs with
    | nil =>
      rcases List.mem_cons.1 he with rfl | hr
      · exact absurd rfl hne
      · exact ih h hr
    | cons b bs =>
      cases ht : rxTurn rest with
      | none =>
        obtain rfl : m = k := by simpa [rxTurn, ht] using h
        rcases List.mem_cons.1 he with rfl | hr
        · exact Nat.le_refl _
        · exact absurd ((rxTurn_eq_none_iff rest).1 ht e hr) hne
      | some j =>
        obtain rfl : min m j = k := by simpa [rxTurn, ht] using h
        rcases List.mem_cons.1 he with rfl | hr
        · exact Nat.min_le_left _ _
        · exact (Nat.min_le_right _ _).trans (ih ht hr)

/-- A directive for cycle `k` with a byte left has a next byte. -/
theorem rxHead_isSome {bytes : List (Nat × List Byte)} {k : Nat} (h : ∃ e ∈ bytes, e.1 = k ∧ e.2 ≠ []) :
    (rxHead k bytes).isSome = true := by
  induction bytes with
  | nil => simp at h
  | cons x rest ih =>
    obtain ⟨m, bs⟩ := x
    cases bs with
    | nil => exact ih (by simpa using h)
    | cons b bs =>
      by_cases hm : m = k
      · simp [rxHead, hm]
      · simpa [rxHead, hm] using ih (by simpa [hm] using h)

/-- A byte is offered in cycle `n` exactly when some directive has begun and has a byte left (R99). -/
theorem offeredByte_isSome_iff (bytes : List (Nat × List Byte)) (n : Nat) :
    (offeredByte bytes n).isSome = true ↔ ∃ e ∈ bytes, e.1 ≤ n ∧ e.2 ≠ [] := by
  unfold offeredByte
  cases ht : rxTurn bytes with
  | none =>
    have hnone := (rxTurn_eq_none_iff bytes).1 ht
    simpa using fun a b he _ => hnone (a, b) he
  | some k =>
    obtain ⟨e, he, hk, hne⟩ := rxTurn_mem ht
    by_cases hkn : k ≤ n
    · simpa [hkn, rxHead_isSome ⟨e, he, hk, hne⟩] using (⟨e.1, e.2, he, hk.trans_le hkn, hne⟩ : ∃ a b, (a, b) ∈ bytes ∧ a ≤ n ∧ b ≠ [])
    · simp only [hkn, if_false, Option.isSome_none, Bool.false_eq_true, false_iff]
      rintro ⟨e', he', hn, hne'⟩
      exact hkn ((rxTurn_le ht e' he' hne').trans hn)

/-! ### The end of a host program (R226) -/

/-- The test of the conditions is the conditions. -/
theorem Bench.isEnded_iff (b : Bench) : b.isEnded = true ↔ b.Ended := by
  have hd : decodesOk (decodeFrame b.machine.params.checkMagic (window b.machine)) = true ↔
      ∃ f, decodeFrame b.machine.params.checkMagic (window b.machine) = .ok f := by
    cases decodeFrame b.machine.params.checkMagic (window b.machine) <;> simp [decodesOk]
  simp [Bench.isEnded, Bench.Ended, AtRest, hd, and_assoc]

/-- A program that ends at once. -/
theorem Bench.endsAt_zero (d : Directives) (b e : Bench) : b.EndsAt d 0 e ↔ b.Ended ∧ b = e := by
  constructor
  · rintro ⟨hr, he, -⟩
    cases hr
    exact ⟨he, rfl⟩
  · rintro ⟨he, rfl⟩
    exact ⟨rfl, he, fun k hk => absurd hk (Nat.not_lt_zero k)⟩

/-- A program that ends later: it has not ended yet, and ends from its next cycle on. -/
theorem Bench.endsAt_succ (d : Directives) (b : Bench) (n : Nat) (e : Bench) :
    b.EndsAt d (n + 1) e ↔ ¬ b.Ended ∧ ∃ b', b.cycle d = .next b' ∧ b'.EndsAt d n e := by
  constructor
  · rintro ⟨hr, he, hf⟩
    refine ⟨hf 0 (Nat.succ_pos n) b rfl, ?_⟩
    cases hc : b.cycle d with
    | next b' =>
      refine ⟨b', rfl, by simpa [Bench.run, hc] using hr, he, fun k hk u hu => hf (k + 1) (by omega) u ?_⟩
      simpa [Bench.run, hc] using hu
    | fault r => simp [Bench.run, hc] at hr
    | refused r => simp [Bench.run, hc] at hr
  · rintro ⟨hb, b', hc, hr, he, hf⟩
    refine ⟨by simpa [Bench.run, hc] using hr, he, fun k hk u hu => ?_⟩
    cases k with
    | zero =>
      cases hu
      exact hb
    | succ k => exact hf k (by omega) u (by simpa [Bench.run, hc] using hu)

/-- A program that ends at once has its first state as its end state. -/
theorem Bench.endState_of_ended (d : Directives) (n : Nat) (b : Bench) (h : b.Ended) : b.endState d n = some (0, b) := by
  have hb := (Bench.isEnded_iff b).2 h
  cases n <;> simp only [Bench.endState, hb, if_true]

/-- `endState` finds exactly the end state: the first state that meets the conditions. -/
theorem Bench.endState_eq_some_iff (d : Directives) (n : Nat) (b : Bench) (k : Nat) (e : Bench) :
    b.endState d n = some (k, e) ↔ k ≤ n ∧ b.EndsAt d k e := by
  induction n generalizing b k with
  | zero =>
    by_cases h : b.Ended
    · rw [Bench.endState_of_ended d 0 b h]
      cases k with
      | zero => simp [Bench.endsAt_zero, h]
      | succ k => simp
    · have hb : ¬ b.isEnded = true := fun hb => h ((Bench.isEnded_iff b).1 hb)
      have hn : b.endState d 0 = none := by simp only [Bench.endState, hb]; rfl
      rw [hn]
      cases k with
      | zero => simp [Bench.endsAt_zero, h]
      | succ k => simp
  | succ n ih =>
    by_cases h : b.Ended
    · rw [Bench.endState_of_ended d (n + 1) b h]
      cases k with
      | zero => simp [Bench.endsAt_zero, h]
      | succ k => simp [Bench.endsAt_succ, h]
    · have hb : ¬ b.isEnded = true := fun hb => h ((Bench.isEnded_iff b).1 hb)
      have hn : b.endState d (n + 1) =
          (match b.cycle d with
           | .next b' => (b'.endState d n).map fun r => (r.1 + 1, r.2)
           | .fault _ => none
           | .refused _ => none) := by
        simp only [Bench.endState, hb]
        rfl
      rw [hn]
      cases k with
      | zero => cases b.cycle d <;> simp [Bench.endsAt_zero, h]
      | succ k =>
        rw [Bench.endsAt_succ, and_iff_right h]
        cases b.cycle d with
        | next b' => simp [Prod.ext_iff, ← ih b' k]
        | fault r => simp
        | refused r => simp

/-- A program has one end state. -/
theorem Bench.EndsAt.unique {d : Directives} {b e e' : Bench} {n n' : Nat} (h : b.EndsAt d n e) (h' : b.EndsAt d n' e') :
    n = n' ∧ e = e' := by
  obtain ⟨hr, he, hf⟩ := h
  obtain ⟨hr', he', hf'⟩ := h'
  obtain hlt | rfl | hlt := Nat.lt_trichotomy n n'
  · exact absurd he (hf' n hlt e hr)
  · rw [hr] at hr'
    cases hr'
    exact ⟨rfl, rfl⟩
  · exact absurd he' (hf n' hlt e' hr')

end Sys2Proof.Machine
end

