-- ==== Sys2Proof/Laws/PerInstr.lean ====
section
/-! SUPPORT. Sys2Proof/Laws/PerInstr.lean: statements made of every instruction, one lemma per constructor. -/

namespace Sys2Proof.Laws.EncodingFormat

/-- An instruction's encoding stands where its row of the opcode table says. -/
def Statement (i : Instr) : Prop := (encode i).format = i.format

theorem transact (command : Byte) (data : Word32) : Statement (.transact command data) := rfl
theorem poll : Statement .poll := rfl
theorem openPort : Statement .openPort := rfl
theorem closePort : Statement .closePort := rfl
theorem frame (f : Frame) : Statement (.frame f) := rfl
theorem handshake : Statement .handshake := rfl
theorem cmdOk : Statement .cmdOk := rfl
theorem cmdGetState : Statement .cmdGetState := rfl
theorem cmdError : Statement .cmdError := rfl

end Sys2Proof.Laws.EncodingFormat
end

