-- ==== Sys2Proof/Tests/Slice0.lean ====
section
/-! SUPPORT. Sys2Proof/Tests/Slice0.lean: the model's own tests. Expected results are the spec's: words written out from
30_encoding.md, and the vectors SX, CD, RD, TR and P of 95_test_vectors.md, named in each comment. Then, for every statement with
hypotheses, a witness that meets them together. -/

namespace Sys2Proof.Tests

open Sys2Proof Sys2Proof.Machine

/-! ### Helpers -/

/-- The state an outcome goes on in. -/
def nextOf (o : Host.Outcome State Fault Refusal) : Option State :=
  match o with
  | .next s => some s
  | .fault _ => none
  | .refused _ => none

/-- Inputs that offer a request word. -/
def asking (op : BitVec 2) (command : Byte) (data : Word32) : Inputs :=
  { Inputs.quiet with reqValid := true, reqOp := op, reqCommand := command, reqData := data }

/-- Inputs that offer a byte on RX. -/
def offering (b : Byte) : Inputs := { Inputs.quiet with rxValid := true, rxByte := b }

/-- Inputs with the sink ready. -/
def sinkReady : Inputs := { Inputs.quiet with txReady := true }

/-- Inputs with a tick. -/
def ticking : Inputs := { Inputs.quiet with tick := true }

/-- Inputs with rst = 1. -/
def resetting : Inputs := { Inputs.quiet with rst := true }

/-- The reset state with an environment. -/
def closedIdle (env : List Inputs) : State := { State.reset with env := env }

/-- An open block in a phase. -/
def openIn (phase : Phase) (env : List Inputs) : State := { State.reset with opened := true, phase := phase, env := env }

/-- The frame of ENC(00, 1), the reply of program P1. -/
def f1 : Frame := { m0 := 0xA5, m1 := 0xAA, m2 := 0xAA, command := 0x00, data := 1, checksum := 0x01 }

/-- The frame of ENC(00, 2), the late reply of program P3. -/
def f2 : Frame := { m0 := 0xA5, m1 := 0xAA, m2 := 0xAA, command := 0x00, data := 2, checksum := 0x02 }

/-- Their wire bytes, as P1 and P3 write them. -/
def w1 : List Byte := [0xA5, 0xAA, 0xAA, 0x00, 0x01, 0x00, 0x00, 0x00, 0x01]
def w2 : List Byte := [0xA5, 0xAA, 0xAA, 0x00, 0x02, 0x00, 0x00, 0x00, 0x02]

/-- CD-12: ENC(03, 0) with a wrong checksum. -/
def wBad : List Byte := [0xA5, 0xAA, 0xAA, 0x03, 0x00, 0x00, 0x00, 0x00, 0x04]

/-! ### WellFormed: an ill-formed term for each check, which the check refuses -/

/-- CD-12: a wrong checksum, under either CHECK_MAGIC. -/
theorem test_wf_refuses_wrong_checksum :
    (∀ cm, Instr.wf cm (.frame { f1 with checksum := 0x04 }) = false) := by decide

/-- CD-15: a wrong magic is refused under CHECK_MAGIC = 1 only. -/
theorem test_wf_refuses_wrong_magic :
    Instr.wf true (.frame { f1 with m0 := 0x00 }) = false ∧ Instr.wf true (.frame { f1 with m2 := 0x00 }) = false ∧
    Instr.wf false (.frame { f1 with m0 := 0x00 }) = true := by decide

/-- A legal frame, and a host operation with any operand (R86). -/
theorem test_wf_accepts : Instr.wf true (.frame f1) = true ∧ Instr.wf true (.transact 0xFF 0xFFFFFFFF) = true := by decide

/-! ### Decoding: each constructor's word written out from 30_encoding.md -/

/-- R93, P1: op 00, command 03, data 0. -/
theorem test_decode_transact :
    decodeTableWord 42 0b000000001100000000000000000000000000000000 = some (.transact 0x03 0) ∧
    decodeTableWord 48 0x0FF00000007 = some (.transact 0xFF 7) := by decide

/-- R93, TR-14: op 01; the other bits are ignored. -/
theorem test_decode_poll :
    decodeTableWord 48 0x10000000000 = some .poll ∧ decodeTableWord 48 0x1FFFFFFFFFF = some .poll := by decide

/-- R93, TR-14: op 10. -/
theorem test_decode_open :
    decodeTableWord 48 0x20000000000 = some .openPort ∧ decodeTableWord 48 0x2ABCDEF0123 = some .openPort := by decide

/-- R93: op 11. -/
theorem test_decode_close : decodeTableWord 48 0x30000000000 = some .closePort := by decide

/-- R80, R82, SX-2 and CD-4: bytes in wire order, data little-endian. -/
theorem test_decode_frame :
    decodeTableWord 72
        (0b10100101_10101010_10101010_00010010_00010010_00110100_01010110_01111000_00011010) =
      some (.frame { m0 := 0xA5, m1 := 0xAA, m2 := 0xAA, command := 0x12, data := 0x78563412, checksum := 0x1A }) := by decide

/-- R88: 1E 1E 1E. -/
theorem test_decode_handshake : decodeTableWord 24 0b00011110_00011110_00011110 = some .handshake := by decide

/-- R85, R87. -/
theorem test_decode_commands :
    decodeTableWord 8 0b00000000 = some .cmdOk ∧ decodeTableWord 8 0b00000011 = some .cmdGetState ∧
    decodeTableWord 8 0b11111111 = some .cmdError := by decide

/-- CD-11b, CD-12, CD-15, CD-16: what DECODE rejects, by name and in order. -/
theorem test_decode_rejects_frames :
    decode true (.frame (wBad.take 8)) = .error (.frame .invalidSize) ∧
    decode true (.frame (wBad ++ [0x00])) = .error (.frame .invalidSize) ∧
    decode true (.frame wBad) = .error (.frame .checksumMismatch) ∧
    decode true (.frame (0x00 :: w1.tail)) = .error (.frame .badMagic) ∧
    decode true (.frame (0x00 :: wBad.tail)) = .error (.frame .checksumMismatch) ∧
    decode false (.frame (0x00 :: w1.tail)) = .ok (.frame { f1 with m0 := 0x00 }) := by decide

/-- No handshake, no named command byte, no word of the table. -/
theorem test_decode_rejects_others :
    decode true (.handshake [0x1E, 0x1E]) = .error .notHandshake ∧
    decode true (.command 0x01) = .error .unnamedCommand ∧ decodeTableWord 48 (2 ^ 42) = none := by decide

/-- The encoder writes the words of R91 (canonical form), R80 and R88. -/
theorem test_encode :
    encode (.transact 0x12 0x78563412) = .request 0x01278563412 ∧ encode .poll = .request 0x10000000000 ∧
    encode .openPort = .request 0x20000000000 ∧ encode .closePort = .request 0x30000000000 ∧
    encode (.frame f1) = .frame w1 ∧ encode .handshake = .handshake [0x1E, 0x1E, 0x1E] ∧ encode .cmdError = .command 0xFF := by
  decide

/-! ### One step of each instruction -/

/-- P1, cycle 6. -/
theorem test_transact_open :
    (nextOf (exec (.transact 0x03 0) (openIn .idle [Inputs.quiet]))).map (fun t => (t.phase, t.txidx, t.txbuf.toList)) =
      some (.tx, 0, [0xA5, 0xAA, 0xAA, 0x03, 0x00, 0x00, 0x00, 0x00, 0x03]) := by decide

/-- P4, cycle 1: the response word of cycle 2. -/
theorem test_transact_closed :
    (nextOf (exec (.transact 0x03 0) (closedIdle [Inputs.quiet]))).map (fun t => (t.phase, responseWord t)) =
      some (.resp, 0x4000000000000000000) := by decide

/-- TR-4: POLL takes the oldest frame. -/
theorem test_poll_frame :
    (nextOf (exec .poll { openIn .idle [Inputs.quiet] with respq := [f1, f2] })).map
        (fun t => (t.phase, responseWord t, t.respq)) =
      some (.resp, 0x0AAAAA5000000000101, [f2]) := by decide

/-- TR-9: POLL of an empty queue. -/
theorem test_poll_empty :
    (nextOf (exec .poll (openIn .idle [Inputs.quiet]))).map (fun t => (t.phase, responseWord t)) =
      some (.resp, 0x2000000000000000000) := by decide

/-- P1, cycle 1; RD-13: the byte of the accepting cycle is discarded. -/
theorem test_open_closed :
    (nextOf (exec .openPort (closedIdle [offering 0x01]))).map (fun t => (t.phase, t.opened, t.rxbuf)) =
      some (.hs, true, []) := by decide

/-- TR-2. -/
theorem test_open_illegal :
    (nextOf (exec .openPort { openIn .idle [Inputs.quiet] with respq := [f1] })).map
        (fun t => (responseWord t, t.opened, t.respq)) =
      some (0x5000000000000000000, true, [f1]) := by decide

/-- TR-12: CLOSE in the cycle that would publish a frame. -/
theorem test_close_open :
    (nextOf (exec .closePort { openIn .idle [offering 0x09] with rxbuf := w1 })).map
        (fun t => (responseWord t, t.opened, t.rxbuf, t.respq)) =
      some (0x3000000000000000000, false, [], []) := by decide

/-- TR-3. -/
theorem test_close_closed :
    (nextOf (exec .closePort (closedIdle [Inputs.quiet]))).map (fun t => (t.phase, responseWord t)) =
      some (.resp, 0x3000000000000000000) := by decide

/-- RD-10, cycle 15: published, and the waiting byte of a full buffer stays out. -/
theorem test_frame_published :
    (nextOf (exec (.frame f1)
        { openIn .idle [offering 0xA5] with
          rxbuf := w1, params := { Params.default with rxbufDepth := some 9, respqDepth := some 1 } })).map
        (fun t => (t.rxbuf, t.respq)) = some ([], [f1]) := by decide

/-- RD-10, cycles 25 to 40: held while `respq` is full. -/
theorem test_frame_held :
    (nextOf (exec (.frame f2)
        { openIn .idle [Inputs.quiet] with
          rxbuf := w2, respq := [f1], params := { Params.default with rxbufDepth := some 9, respqDepth := some 1 } })).map
        (fun t => (t.rxbuf, t.respq)) = some (w2, [f1]) := by decide

/-- P1, cycle 4: the third byte completes OPEN with DONE. -/
theorem test_handshake_last :
    (nextOf (exec .handshake { openIn .hs [sinkReady] with txidx := 2 })).map (fun t => (t.phase, responseWord t, t.txidx)) =
      some (.resp, 0x3000000000000000000, 0) := by decide

/-- P1, cycle 2: the first byte, 1E. -/
theorem test_handshake_first :
    sentByte (openIn .hs [sinkReady]) = [0x1E] ∧
    (nextOf (exec .handshake (openIn .hs [sinkReady]))).map (fun t => (t.phase, t.txidx)) = some (.hs, 1) := by decide

/-- P2: bytes are accepted behind what is buffered; R85's values. -/
theorem test_commands_received :
    (nextOf (exec .cmdOk { openIn .wait [Inputs.quiet] with rxbuf := [0xA5] })).map (·.rxbuf) = some [0xA5, 0x00] ∧
    (nextOf (exec .cmdGetState { openIn .wait [Inputs.quiet] with rxbuf := [0xA5] })).map (·.rxbuf) = some [0xA5, 0x03] ∧
    (nextOf (exec .cmdError { openIn .wait [Inputs.quiet] with rxbuf := [0xA5] })).map (·.rxbuf) = some [0xA5, 0xFF] := by
  decide

/-- RD-13: while closed they are discarded. -/
theorem test_commands_discarded :
    (nextOf (exec .cmdOk (closedIdle [Inputs.quiet]))).map (·.rxbuf) = some [] ∧
    (nextOf (exec .cmdGetState (closedIdle [Inputs.quiet]))).map (·.rxbuf) = some [] ∧
    (nextOf (exec .cmdError (closedIdle [Inputs.quiet]))).map (·.rxbuf) = some [] := by decide

/-! ### Steps of the whole block -/

/-- A placed table word is the one the next step runs, for each format. -/
theorem test_withFetchWord :
    (fetch (State.reset.withFetchWord 48 0x00300000000) = some (.transact 0x03 0) ∧
      fetch (State.reset.withFetchWord 48 0x30000000000) = some .closePort) ∧
    (fetch (State.reset.withFetchWord 72 0xA5AAAA000500000005) =
        some (.frame { m0 := 0xA5, m1 := 0xAA, m2 := 0xAA, command := 0x00, data := 5, checksum := 0x05 }) ∧
      fetch (State.reset.withFetchWord 24 0x1E1E1E) = some .handshake ∧
      fetch (State.reset.withFetchWord 8 0xFF) = some .cmdError) := by decide

/-- P1, cycle 1, through `step`. -/
theorem test_step_open :
    (nextOf (step (State.reset.withFetchWord 48 0x20000000000))).map (fun t => (t.phase, t.opened)) = some (.hs, true) := by
  decide

/-- TR-6 and TR-7: a queued frame beats the deciding tick; a frame published in the deciding cycle does not. -/
theorem test_wait_decision :
    (nextOf (step { openIn .wait [ticking] with
        timer := 2, respq := [f1], params := { Params.default with timeoutTicks := 3 } })).map responseWord =
      some 0x0AAAAA5000000000101 ∧
    (nextOf (step { openIn .wait [ticking] with
        timer := 2, rxbuf := w1, params := { Params.default with timeoutTicks := 3 } })).map
        (fun t => (responseWord t, t.respq)) = some (0x1000000000000000000, [f1]) := by decide

/-- TR-8: a stalled byte stays on TX. TR-11: a reset cycle transfers nothing. -/
theorem test_tx_stall_and_reset :
    sentByte { openIn .tx [Inputs.quiet] with txidx := 2, txbuf := encodeFrame 0x03 0 } = [] ∧
    (nextOf (step { openIn .tx [Inputs.quiet] with txidx := 2 })).map (·.txidx) = some 2 ∧
    (outputs { openIn .tx [resetting] with txidx := 3 } true).txValid = false ∧
    (nextOf (step { openIn .tx [resetting] with txidx := 3, rxbuf := [0xA5] })).map
        (fun t => (t.phase, t.opened, t.txidx, t.rxbuf)) = some (.idle, false, 0, []) := by decide

/-- R38: a block never reset is stuck until a reset edge. -/
theorem test_unreset :
    nextOf (step { closedIdle [Inputs.quiet] with wasReset := false }) = none ∧
    (nextOf (step { closedIdle [resetting] with wasReset := false })).map (·.wasReset) = some true := by decide

/-- RD-5: a truncated frame, then a whole one. RD-7: a stuck line under CHECK_MAGIC = 1. -/
theorem test_resync :
    resync true [0xA5, 0xAA, 0xAA, 0x03, 0x00, 0xA5, 0xAA, 0xAA, 0x00, 0x05, 0x00, 0x00, 0x00, 0x05] =
      ([{ m0 := 0xA5, m1 := 0xAA, m2 := 0xAA, command := 0x00, data := 5, checksum := 0x05 }], []) ∧
    resync true (List.replicate 9 0x00) = ([], List.replicate 8 0x00) := by decide

/-! ### Host programs (R98 to R100) -/

/-- P1: OPEN is offered in cycle 1, accepted, and the host then waits; the reply's bytes are not offered before cycle 16. -/
theorem test_bench_first_cycle :
    let b := Bench.start Params.default [(0, .openPort), (0, .transact 0x03 0)] [(16, w1)]
    let d : Directives := { tickEvery := none, overrides := [], resets := [] }
    offeredWord b 1 = some 0x20000000000 ∧ (b.inputs d).txReady = true ∧ (b.inputs d).rxValid = false ∧
    (match b.cycle d with
     | .next b' => some (b'.waiting, b'.machine.phase, offeredWord b' 2)
     | .fault _ => none
     | .refused _ => none) = some (true, .hs, none) := by decide

/-- P5: BATCH goes on after FRAME with command OK and ends at an ERROR reply. R100: DRAIN ends with EMPTY. -/
theorem test_bench_pseudo_operations :
    HostLine.afterResponse (.batch [(0x10, 1), (0x11, 2)]) .frame f1 = some (.batch [(0x11, 2)]) ∧
    HostLine.afterResponse (.batch [(0x11, 2), (0x12, 3)]) .frame { f2 with command := 0xFF } = none ∧
    HostLine.afterResponse .drain .frame f1 = some .drain ∧ HostLine.afterResponse .drain .empty Frame.zero = none := by decide

/-- R99: bytes for cycle 6 are offered from 6, though bytes for cycle 20 are listed before them, which follow when those are done. -/
theorem test_bench_rx_order :
    offeredByte [(20, [0x11, 0x22]), (6, [0x33])] 5 = none ∧ offeredByte [(20, [0x11, 0x22]), (6, [0x33])] 6 = some 0x33 ∧
    afterByte [(20, [0x11, 0x22]), (6, [0x33])] = [(20, [0x11, 0x22]), (6, [])] ∧
    offeredByte [(20, [0x11, 0x22]), (6, [])] 19 = none ∧ offeredByte [(20, [0x11, 0x22]), (6, [])] 20 = some 0x11 := by decide

/-- R226, P1: OPEN alone ends at the start of cycle 6, open, though a reset in cycle 6 would meet the conditions again. -/
theorem test_bench_end_state :
    (Bench.endState { tickEvery := none, overrides := [], resets := [6] } 8 (Bench.start Params.default [(0, .openPort)] [])).map
        (fun r => (r.1, r.2.machine.cycle, r.2.machine.opened)) = some (5, 6, true) ∧
    Bench.endState { tickEvery := none, overrides := [], resets := [] } 4 (Bench.start Params.default [(0, .openPort)] []) = none := by
  decide

/-! ### A property of every state of a run, decided by running it -/

/-- `p` holds at the start of each of `n` cycles and after the last. -/
def allAlong (p : State → Bool) : Nat → State → Bool
  | 0, s => p s
  | n + 1, s =>
    p s &&
      (match step s with
       | .next t => allAlong p n t
       | .fault _ => true
       | .refused _ => true)

/-- What `allAlong` says of the states a run reaches. -/
theorem allAlong_run (p : State → Bool) (n : Nat) (s : State) (h : allAlong p n s = true) (k : Nat) (hk : k ≤ n) (u : State)
    (hu : Host.Core.run core k s = .next u) : p u = true := by
  induction n generalizing s k with
  | zero =>
    obtain rfl : k = 0 := by omega
    cases hu
    exact h
  | succ n ih =>
    rw [allAlong, Bool.and_eq_true] at h
    cases k with
    | zero => cases hu; exact h.1
    | succ k =>
      have hc : core.step s = step s := rfl
      cases hs : step s with
      | next t =>
        rw [run_succ_of_step hs] at hu
        exact ih t (by simpa [hs] using h.2) k (by omega) hu
      | fault r => rw [hs] at hc; simp [Host.Core.run, hc] at hu
      | refused r => rw [hs] at hc; simp [Host.Core.run, hc] at hu

/-- The transport stays open. -/
theorem openThroughout_of_allAlong {n : Nat} {s : State} (h : allAlong (·.opened) n s = true) : OpenThroughout n s :=
  fun k hk u hu => allAlong_run (·.opened) n s h k hk u hu

/-- `respq` keeps room. -/
theorem roomThroughout_of_allAlong {n : Nat} {s : State}
    (h : allAlong (fun u => hasRoom u.params.respqDepth u.respq.length) n s = true) : RoomThroughout n s :=
  fun k hk u hu => allAlong_run (fun u => hasRoom u.params.respqDepth u.respq.length) n s h k (by omega) u hu

/-- No frame is queued. -/
theorem noFrameThroughout_of_allAlong {n : Nat} {s : State} (h : allAlong (fun u => decide (u.respq = [])) n s = true) :
    NoFrameThroughout n s :=
  fun k hk u hu => by simpa using allAlong_run (fun u => decide (u.respq = [])) n s h k (by omega) u hu

/-! ### Witnesses: a concrete state and operands that meet each statement's hypotheses -/

theorem witness_DecodeChecksLengthThenChecksumThenMagic :
    ([] : List Byte).length ≠ 9 ∧ (w1 ++ [0x00]).length ≠ 9 ∧
    (wBad.length = 9 ∧ wBad.getD 3 0 ^^^ wBad.getD 4 0 ^^^ wBad.getD 5 0 ^^^ wBad.getD 6 0 ^^^ wBad.getD 7 0 ≠ wBad.getD 8 0) ∧
    (∀ w ∈ [0x00 :: w1.tail, w1],
      w.length = 9 ∧ w.getD 3 0 ^^^ w.getD 4 0 ^^^ w.getD 5 0 ^^^ w.getD 6 0 ^^^ w.getD 7 0 = w.getD 8 0) ∧
    ¬ ((0x00 :: w1.tail).getD 0 0 = (0xA5 : Byte)) ∧
    (w1.getD 0 0 = 0xA5 ∧ w1.getD 1 0 = 0xAA ∧ w1.getD 2 0 = 0xAA) := by decide

theorem witness_CodecRoundTrip :
    (decodeFrame false w1 = .ok f1 ∧ f1.m0 = 0xA5 ∧ f1.m1 = 0xAA ∧ f1.m2 = 0xAA) ∧ decodeFrame true w2 = .ok f2 := by decide

theorem witness_SingleBitFlipIsDetected :
    (8 < 9 ∧ 7 < 8 ∧ 3 ≤ 8) ∧ (3 < 9 ∧ 0 < 8 ∧ 3 ≤ 3) ∧ (2 < 9 ∧ 7 < 8 ∧ 2 < 3) ∧ (0 < 9 ∧ 0 < 8 ∧ 0 < 3) := by decide

theorem witness_UndetectedCorruptionFlipsEvenly :
    decodeFrame true [0xA5, 0xAA, 0xAA, 0x00, 0x01, 0x00, 0x00, 0x00, 0x01] = .ok f1 := by decide

theorem witness_RequestWordsSelectOneOperation :
    (0x0FFFFFFFFFF#42 &&& 0x30000000000#42 = 0x00000000000#42) ∧ (0x1FFFFFFFFFF#42 &&& 0x30000000000#42 = 0x10000000000#42) ∧
    (0x20000000000#42 &&& 0x30000000000#42 = 0x20000000000#42) ∧ (0x3FFFFFFFFFF#42 &&& 0x30000000000#42 = 0x30000000000#42) := by
  decide

theorem witness_DecodeInvertsEncode :
    Instr.wf true (.frame f1) = true ∧ Instr.wf false (.frame { f1 with m1 := 0x00 }) = true ∧ Instr.wf true .handshake = true := by
  decide

theorem witness_WireEncodingsAreUnique :
    (decode true (.frame w1) = .ok (.frame f1) ∧ (Code.frame w1).format ≠ .request) ∧
    decode true (.request 0x1FFFFFFFFFF) = .ok .poll := by decide

theorem witness_ResetEdgeLeavesResetState :
    (inputOf (openIn .tx [resetting])).rst = true ∧
    (inputOf { openIn .tx [resetting] with wasReset := false }).rst = true := by decide

theorem witness_ResetCycleIgnoresEverythingElse :
    (inputOf (openIn .tx [resetting])).rst = true ∧ (inputOf (closedIdle [{ offering 0x07 with rst := true }])).rst = true ∧
    (openIn .tx [resetting]).params = (closedIdle [{ offering 0x07 with rst := true }]).params ∧
    (openIn .tx [resetting]).env.tail = (closedIdle [{ offering 0x07 with rst := true }]).env.tail ∧
    (openIn .tx [resetting]).cycle = (closedIdle [{ offering 0x07 with rst := true }]).cycle := by decide

/-- Each clause; the first with three instructions met in one cycle. -/
theorem witness_StepRunsEveryInstructionItMeets :
    ((inputOf { openIn .hs [offering 0xFF] with rxbuf := w1 }).rst = false ∧
      Instr.handshake ∈ met { openIn .hs [offering 0xFF] with rxbuf := w1 } ∧
      Instr.frame f1 ∈ met { openIn .hs [offering 0xFF] with rxbuf := w1 } ∧
      Instr.cmdError ∈ met { openIn .hs [offering 0xFF] with rxbuf := w1 }) ∧
    met (openIn .idle [Inputs.quiet]) = [] ∧
    ((inputOf (openIn .idle [asking 3 0 0])).reqValid = true ∧ (openIn .idle [asking 3 0 0]).phase = .idle) ∧
    decodeFrame true ((w1 ++ w2).take 9) = .ok f1 ∧
    ((inputOf (closedIdle [offering 0x03])).rxValid = true ∧ (inputOf (closedIdle [offering 0x03])).rxByte = 0x03 ∧
      encode .cmdGetState = .command 0x03) ∧
    (openIn .tx [Inputs.quiet]).phase ≠ .hs := by decide

theorem witness_StepComposesReaderTransactorAndQueues :
    ((openIn .tx [resetting]).wasReset = true ∧ (inputOf (openIn .tx [resetting])).rst = true) ∧
    ((openIn .tx [sinkReady]).wasReset = true ∧ (inputOf (openIn .tx [sinkReady])).rst = false) := by decide

theorem witness_QuietCycleIsTheReaderAlone : (closedIdle [offering 0x01]).opened = false := by decide

/-- For TransactAccepted, PollAccepted, OpenAccepted and CloseAccepted: each clause's state. -/
theorem witness_AcceptedOperations :
    ((openIn .idle [Inputs.quiet]).phase = .idle ∧ (openIn .idle [Inputs.quiet]).opened = true ∧
      (openIn .idle [Inputs.quiet]).respq = []) ∧
    ((closedIdle [Inputs.quiet]).phase = .idle ∧ (closedIdle [Inputs.quiet]).opened = false) ∧
    ({ openIn .idle [Inputs.quiet] with respq := [f1] }.phase = .idle ∧
      { openIn .idle [Inputs.quiet] with respq := [f1] }.opened = true ∧
      { openIn .idle [Inputs.quiet] with respq := [f1] }.respq = f1 :: []) ∧
    (0x1FFFFFFFFFF#42).extractLsb' 40 2 = 1 := by decide

theorem witness_OperationOfferedWhileBusyHasNoEffect :
    Instr.closePort.format = .request ∧ (openIn .wait [asking 3 0 0]).phase ≠ .idle ∧
    (openIn .wait [asking 3 0 0]).wasReset = true ∧ inputOf (openIn .wait [asking 3 0 0]) = asking 3 0 0 ∧
    (asking 3 0 0).rst = false := by decide

/-- An acceptance; a response taken. -/
theorem witness_OneOperationInFlight :
    ((nextOf (step (openIn .idle [asking 0 0x03 0]))).isSome = true ∧ (inputOf (openIn .idle [asking 0 0x03 0])).rst = false ∧
      reqFire (openIn .idle [asking 0 0x03 0]) (asking 0 0x03 0) = true) ∧
    ((openIn .resp [{ Inputs.quiet with rspReady := true }]).phase ≠ .idle ∧
      (nextOf (step (openIn .resp [{ Inputs.quiet with rspReady := true }]))).map (·.phase) = some .idle) := by decide

/-- Published, held, closed, and cleared by CLOSE. -/
theorem witness_FrameMetIsPublishedOrHeld :
    ((ctl { openIn .idle [Inputs.quiet] with rxbuf := w1 } Inputs.quiet).clear = false ∧
      hasRoom (some 4) ([f1, f1, f1] : List Frame).length = true ∧ hasRoom (some 4) ([f1, f1, f1, f1] : List Frame).length = false) ∧
    (ctl (openIn .idle [asking 3 0 0]) (asking 3 0 0)).clear = true ∧ (closedIdle [Inputs.quiet]).opened = false := by decide

theorem witness_InvalidWindowDropsOneByte :
    Running { openIn .idle [Inputs.quiet] with rxbuf := wBad } ∧ 9 ≤ wBad.length ∧
    decodeFrame true (wBad.take 9) = .err .checksumMismatch ∧
    (ctl { openIn .idle [Inputs.quiet] with rxbuf := wBad } Inputs.quiet).clear = false := by decide

/-- With a byte offered in the cycle that accepts OPEN. -/
theorem witness_ClosedBlockDiscardsReceivedBytes :
    Running (closedIdle [{ asking 2 0 0 with rxValid := true, rxByte := 0x01 }]) ∧
    (closedIdle [{ asking 2 0 0 with rxValid := true, rxByte := 0x01 }]).opened = false ∧
    ClosedInv (closedIdle [{ asking 2 0 0 with rxValid := true, rxByte := 0x01 }]) := by decide

theorem witness_CommandBytesAreReceivedAlike :
    (Instr.cmdOk = .cmdOk ∧ (0x00 : Byte) = 0x00) ∧ (Instr.cmdGetState = .cmdGetState ∧ (0x03 : Byte) = 0x03) ∧
    (Instr.cmdError = .cmdError ∧ (0xFF : Byte) = 0xFF) := by decide

/-- Stalled; index 1, the last below 2; index 2; and the two runs, with a stall in each. -/
theorem witness_HandshakeSendsExactlyThreeBytes :
    ((openIn .hs [Inputs.quiet]).phase = .hs ∧ (inputOf (openIn .hs [Inputs.quiet])).txReady = false) ∧
    ((inputOf { openIn .hs [sinkReady] with txidx := 1 }).txReady = true ∧ (1 : Fin 9).val < 2 ∧ (2 : Fin 9).val = (1 : Fin 9).val + 1) ∧
    ((openIn .hs [sinkReady]).wasReset = true ∧ (openIn .hs [sinkReady]).txidx = 0 ∧
      (∀ i ∈ [sinkReady, Inputs.quiet, sinkReady], i.rst = false) ∧
      ([sinkReady, Inputs.quiet, sinkReady].filter (·.txReady)).length = 2 ∧ sinkReady.txReady = true) := by decide

theorem witness_TransmissionSendsTheNineBytes :
    (Running (openIn .tx [Inputs.quiet]) ∧ (openIn .tx [Inputs.quiet]).phase = .tx ∧
      (inputOf (openIn .tx [Inputs.quiet])).txReady = false) ∧
    (Running { openIn .tx [sinkReady] with txidx := 7 } ∧ (inputOf { openIn .tx [sinkReady] with txidx := 7 }).txReady = true ∧
      (7 : Fin 9).val < 8 ∧ (8 : Fin 9).val = (7 : Fin 9).val + 1) ∧
    ((openIn .tx []).wasReset = true ∧ (openIn .tx []).txidx = 0 ∧
      (∀ i ∈ Inputs.quiet :: List.replicate 8 sinkReady, i.rst = false) ∧
      ((Inputs.quiet :: List.replicate 8 sinkReady).filter (·.txReady)).length = 8 ∧ sinkReady.txReady = true) := by decide

theorem witness_WaitTakesTheOldestFrame :
    Running { openIn .wait [ticking] with respq := [f1, f2] } ∧
    { openIn .wait [ticking] with respq := [f1, f2] }.phase = .wait ∧
    { openIn .wait [ticking] with respq := [f1, f2] }.respq = f1 :: [f2] := by decide

/-- The deciding tick (TR-5, cycle 18) and the tick before it. -/
theorem witness_TimeoutComesWithItsLastTick :
    Running { openIn .wait [ticking] with timer := 14999 } ∧ { openIn .wait [ticking] with timer := 14999 }.phase = .wait ∧
    { openIn .wait [ticking] with timer := 14999 }.respq = [] ∧ (inputOf (openIn .wait [ticking])).tick = true ∧
    14999 + 1 = Params.default.timeoutTicks ∧ 14998 + 1 ≠ Params.default.timeoutTicks := by decide

/-- A run of three cycles, the deciding tick its last, with eight bytes of a frame buffered. -/
theorem witness_TimeoutComesWithItsLastTick_run :
    let s : State := { openIn .wait ([Inputs.quiet, ticking] ++ [ticking] ++ []) with timer := 14998, rxbuf := w1.take 8 }
    s.wasReset = true ∧ s.phase = .wait ∧ NoFrameThroughout ([Inputs.quiet, ticking] ++ [ticking]).length s ∧
      (∀ i ∈ [Inputs.quiet, ticking] ++ [ticking], i.rst = false) ∧ ticking.tick = true ∧
      14997 + ([Inputs.quiet, ticking] ++ [ticking] |>.filter (·.tick)).length < 15000 ∧
      s.timer + ([Inputs.quiet, ticking].filter (·.tick)).length + 1 = s.params.timeoutTicks :=
  ⟨rfl, rfl, noFrameThroughout_of_allAlong (by decide), by decide, rfl, by decide, by decide⟩

/-- TR-10: ticks every 4 cycles, TIMEOUT_TICKS 3; the first tick after `first` cycles. -/
def tr10 (first : Nat) : List Inputs :=
  (List.range (first + 9)).map fun j => if j % 4 = first then ticking else Inputs.quiet

/-- The state in which WAIT begins. -/
def tr10State (first : Nat) : State :=
  { openIn .wait (tr10 first ++ []) with params := { Params.default with timeoutTicks := 3 } }

/-- TR-10a, the minimum of 9 cycles. -/
theorem witness_TimeoutBounds_least :
    (tr10State 0).wasReset = true ∧ (tr10State 0).phase = .wait ∧ (tr10State 0).timer = 0 ∧
    NoFrameThroughout (tr10 0).length (tr10State 0) ∧ (∀ i ∈ tr10 0, i.rst = false) ∧ 0 < 4 ∧
    1 ≤ (tr10State 0).params.timeoutTicks ∧ (tr10 0).length = 0 + ((tr10State 0).params.timeoutTicks - 1) * 4 + 1 ∧
    (∀ j (h : j < (tr10 0).length), (tr10 0)[j].tick = true ↔ j % 4 = 0) :=
  ⟨rfl, rfl, rfl, noFrameThroughout_of_allAlong (by decide), by decide, by decide, by decide, by decide, by decide⟩

/-- TR-10c, the maximum of 12. -/
theorem witness_TimeoutBounds_most :
    NoFrameThroughout (tr10 3).length (tr10State 3) ∧ (∀ i ∈ tr10 3, i.rst = false) ∧ 3 < 4 ∧
    (tr10 3).length = 3 + ((tr10State 3).params.timeoutTicks - 1) * 4 + 1 ∧
    (∀ j (h : j < (tr10 3).length), (tr10 3)[j].tick = true ↔ j % 4 = 3) :=
  ⟨noFrameThroughout_of_allAlong (by decide), by decide, by decide, by decide, by decide⟩

theorem witness_TransactorRestsWithoutEvents :
    (Running (openIn .wait [Inputs.quiet]) ∧ (openIn .wait [Inputs.quiet]).phase = .wait ∧ (openIn .wait [Inputs.quiet]).respq = [] ∧
      (inputOf (openIn .wait [Inputs.quiet])).tick = false) ∧
    (Running (openIn .idle [ticking]) ∧ (openIn .idle [ticking]).phase = .idle ∧
      (inputOf (openIn .idle [ticking])).reqValid = false) := by decide

theorem witness_ResponseIsHeldUntilTaken :
    (Running (openIn .resp [Inputs.quiet]) ∧ (openIn .resp [Inputs.quiet]).phase = .resp ∧
      (inputOf (openIn .resp [Inputs.quiet])).rspReady = false) ∧
    (Running (openIn .resp [{ Inputs.quiet with rspReady := true }]) ∧
      (inputOf (openIn .resp [{ Inputs.quiet with rspReady := true }])).rspReady = true) := by decide

theorem witness_ResponseRegistersWrittenOnlyOnCompletion :
    (nextOf (step (openIn .idle [asking 1 0 0]))).map (·.rspStatus) = some .empty ∧
    (openIn .idle [asking 1 0 0]).rspStatus = .frame ∧ (inputOf (openIn .idle [asking 1 0 0])).rst = false := by decide

/-- Each clause, with the deciding tick at TIMEOUT_TICKS = 15000. -/
theorem witness_PriorityOfSimultaneousEvents :
    (inputOf (openIn .wait [{ ticking with rst := true }])).rst = true ∧
    (let s : State := { openIn .wait [ticking] with timer := 14999, respq := [f1, f2] }
     Running s ∧ s.phase = .wait ∧ s.respq = f1 :: [f2] ∧ (inputOf s).tick = true ∧ s.timer + 1 = s.params.timeoutTicks) ∧
    (let s : State := { openIn .wait [ticking] with timer := 14999, rxbuf := w1 }
     Running s ∧ s.phase = .wait ∧ s.respq = [] ∧ (inputOf s).tick = true ∧ s.timer + 1 = s.params.timeoutTicks ∧
       s.opened = true ∧ decodeFrame s.params.checkMagic (s.rxbuf.take 9) = .ok f1 ∧ hasRoom s.params.respqDepth 0 = true) ∧
    (let s : State := { openIn .idle [asking 3 0 0] with rxbuf := w1 }
     Running s ∧ s.phase = .idle ∧ s.opened = true ∧ (inputOf s).reqValid = true ∧
       decodeRequest (requestWord (inputOf s)) = .closePort) ∧
    (let s : State := { openIn .wait [ticking] with rxbuf := w2, respq := [f1, f1, f1] }
     Running s ∧ s.phase = .wait ∧ s.respq = f1 :: [f1, f1] ∧ s.opened = true ∧
       decodeFrame s.params.checkMagic (s.rxbuf.take 9) = .ok f2 ∧ hasRoom s.params.respqDepth s.respq.length = true) := by
  decide

/-- Two inputs that differ in everything phase TX does not name. -/
theorem witness_InputsUnnamedForAPhaseHaveNoEffect :
    let i := sinkReady
    let j : Inputs := { asking 3 1 1 with txReady := true, tick := true, rspReady := true }
    i ≠ j ∧ i.rst = j.rst ∧ i.rxValid = j.rxValid ∧ i.rxByte = j.rxByte ∧ (openIn .tx []).phase = .tx ∧ i.txReady = j.txReady := by
  decide

/-- A short buffer of eight bytes; a valid window with `respq` full. -/
theorem witness_BlockAtRestStaysAtRest :
    (Running { openIn .idle [Inputs.quiet] with rxbuf := w1.take 8 } ∧
      (inputOf (openIn .idle [Inputs.quiet])).reqValid = false ∧ (inputOf (openIn .idle [Inputs.quiet])).rxValid = false) ∧
    AtRest { openIn .idle [Inputs.quiet] with rxbuf := w1.take 8 } ∧
    AtRest { openIn .idle [Inputs.quiet] with rxbuf := w1, respq := [f1, f1, f1, f1] } := by
  refine ⟨by decide, ⟨rfl, .inl (by decide)⟩, ⟨rfl, .inr ⟨⟨f1, by decide⟩, by decide⟩⟩⟩

/-- Legal parameters: the defaults, the least, and the unbounded. -/
theorem witness_InvariantsHoldAtReset :
    Params.default.Legal ∧ Params.Legal { checkMagic := false, rxbufDepth := some 9, respqDepth := some 1, timeoutTicks := 1 } ∧
    Params.Legal { checkMagic := true, rxbufDepth := none, respqDepth := none, timeoutTicks := 15000 } := by decide

/-- A state of a TRANSACT in flight meets the invariants, and steps. -/
theorem witness_EveryStepKeepsTheInvariants :
    Inv { openIn .wait [ticking] with timer := 14999, rxbuf := w1, respq := [f2], txbuf := encodeFrame 0x03 0 } ∧
    (nextOf (step { openIn .wait [ticking] with
      timer := 14999, rxbuf := w1, respq := [f2], txbuf := encodeFrame 0x03 0 })).isSome = true := by
  refine ⟨⟨by decide, by decide, by decide, by decide, by decide, by decide, by decide, by decide⟩, by decide⟩

theorem witness_RunsFromResetGoOnUnderTheInvariants : Params.default.Legal := by decide

/-- At both capacities. -/
theorem witness_CapacityIsNeverExceeded :
    let s : State := { openIn .idle [offering 0x07] with rxbuf := w1 ++ w2.take 7, respq := [f1, f1, f1, f1] }
    (∀ d ∈ s.params.rxbufDepth, s.rxbuf.length ≤ d) ∧ (∀ d ∈ s.params.respqDepth, s.respq.length ≤ d) ∧
      s.rxbuf.length = 16 ∧ s.respq.length = 4 ∧ (nextOf (step s)).isSome = true := by decide

/-- A run of two cycles, a frame published in the first and a byte appended in each. -/
theorem witness_ReaderRunAgreesWithResync :
    let s : State := { openIn .idle [offering 0xA5, offering 0xAA] with rxbuf := w1 }
    OpenThroughout 2 s ∧ (∃ t, Host.Core.run core 2 s = .next t) ∧ publishedDuring 2 s = [f1] ∧ appendedDuring 2 s = [0xA5, 0xAA] :=
  ⟨openThroughout_of_allAlong (by decide), ⟨_, rfl⟩, by decide, by decide⟩

/-- Two bytes buffered and two quiet cycles. -/
theorem witness_DrainedReaderHasFinishedResync :
    let s : State := { openIn .idle [Inputs.quiet, Inputs.quiet] with rxbuf := [0xA5, 0xAA] }
    OpenThroughout 2 s ∧ RoomThroughout 2 s ∧ s.rxbuf.length ≤ 2 ∧ appendedDuring 2 s = [] ∧
      ∃ t, Host.Core.run core 2 s = .next t :=
  ⟨openThroughout_of_allAlong (by decide), roomThroughout_of_allAlong (by decide), by decide, by decide, ⟨_, rfl⟩⟩

/-- A window that DECODE rejects is no frame. -/
theorem ne_ok_of_err {cm : Bool} {w : List Byte} {e : DecodeError} {f : Frame} (h : decodeFrame cm w = .err e) :
    decodeFrame cm w ≠ .ok f := by
  rw [h]
  exact fun h => nomatch h

/-- RD-1: garbage 11 22 before ENC(03, 0). -/
theorem witness_GarbagePrefixIsSkippedByteByByte :
    ∀ i < ([0x11, 0x22] : List Byte).length, ∀ f,
      decodeFrame false ((([0x11, 0x22] ++ (encodeFrame 0x03 0).toList).drop i).take 9) ≠ .ok f := by
  intro i hi f
  have h : i = 0 ∨ i = 1 := by simp at hi; omega
  rcases h with rfl | rfl
  · exact ne_ok_of_err (e := .checksumMismatch) (by decide)
  · exact ne_ok_of_err (e := .checksumMismatch) (by decide)

/-- RD-2, with its first garbage byte 10 alone. -/
theorem witness_TwoFramesSurviveGarbageBetweenThem :
    ∀ i < ([0x10] : List Byte).length, ∀ f,
      decodeFrame false
        ((((encodeFrame 0x01 0x11).toList ++ [0x10] ++ (encodeFrame 0x02 0x22).toList).drop (9 + i)).take 9) ≠ .ok f := by
  intro i hi f
  obtain rfl : i = 0 := by simp at hi; omega
  exact ne_ok_of_err (e := .checksumMismatch) (by decide)

/-- Nine bytes buffered with room; eight; and the two depths of the last clauses. -/
theorem witness_ReaderBuffersAtMostNineBytes :
    let s : State := { openIn .idle [offering 0xA5, offering 0xAA] with rxbuf := w1 }
    RoomThroughout 2 s ∧ s.rxbuf.length ≤ 9 ∧ 9 ≤ s.rxbuf.length ∧ (w1.take 8).length < 9 ∧ (∃ t, Host.Core.run core 2 s = .next t) ∧
      Running s ∧ s.opened = true ∧ (∃ t, step s = .next t) ∧
      (∀ d ∈ (some 10 : Option Nat), 10 ≤ d) ∧
      { s with params := { Params.default with rxbufDepth := some 9 } }.params.rxbufDepth = some 9 :=
  ⟨roomThroughout_of_allAlong (by decide), by decide, by decide, by decide, ⟨_, rfl⟩, by decide, rfl, ⟨_, rfl⟩, by decide, rfl⟩

/-- A run of two cycles in which a frame is published and one is taken. -/
theorem witness_ResponseQueueIsFirstInFirstOut :
    let s : State := { openIn .wait [Inputs.quiet, Inputs.quiet] with rxbuf := w2, respq := [f1] }
    OpenThroughout 2 s ∧ (∃ t, Host.Core.run core 2 s = .next t) ∧ takenFrame s = [f1] ∧ (∃ t, step s = .next t) :=
  ⟨openThroughout_of_allAlong (by decide), ⟨_, rfl⟩, by decide, ⟨_, rfl⟩⟩

/-- P3's second TRANSACT, with the stale reply queued. -/
theorem witness_TransactReturnsTheOldestQueuedFrame :
    let s : State := { openIn .idle (asking 0 0x03 0 :: (List.replicate 10 sinkReady ++ [])) with respq := [f2] }
    s.wasReset = true ∧ s.phase = .idle ∧ s.opened = true ∧ s.respq = f2 :: [] ∧ (asking 0 0x03 0).rst = false ∧
      (asking 0 0x03 0).reqValid = true ∧ decodeRequest (requestWord (asking 0 0x03 0)) = .transact 0x03 0 ∧
      (List.replicate 10 sinkReady).length = 10 ∧ (∀ i ∈ List.replicate 10 sinkReady, i.rst = false ∧ i.txReady = true) := by
  decide

theorem witness_StalledBlockWaitsForEver :
    ((openIn .hs []).wasReset = true ∧ (openIn .hs []).phase = .hs ∧ (openIn .tx []).phase = .tx ∧
      (∀ i ∈ [Inputs.quiet, ticking], i.rst = false ∧ i.txReady = false)) ∧
    (NoFrameThroughout [offering 0xA5, sinkReady].length (openIn .wait ([offering 0xA5, sinkReady] ++ [])) ∧
      (∀ i ∈ [offering 0xA5, sinkReady], i.rst = false ∧ i.tick = false)) :=
  ⟨by decide, noFrameThroughout_of_allAlong (by decide), by decide⟩

/-- Nine ready cycles, then a tick, with TIMEOUT_TICKS = 1: each of the four operations, from a closed and from an open block. -/
theorem witness_AcceptedOperationsComplete :
    ∀ opened : Bool, ∀ op : BitVec 2,
      let s : State :=
        { closedIdle (asking op 0x03 0 :: (List.replicate 9 sinkReady ++ [ticking] ++ [])) with
          opened := opened, params := { Params.default with timeoutTicks := 1 } }
      s.wasReset = true ∧ s.phase = .idle ∧ 1 ≤ s.params.timeoutTicks ∧
        (∀ i ∈ asking op 0x03 0 :: (List.replicate 9 sinkReady ++ [ticking]), i.rst = false) ∧
        (asking op 0x03 0).reqValid = true ∧ 9 ≤ ((List.replicate 9 sinkReady).filter (·.txReady)).length ∧
        s.params.timeoutTicks ≤ ([ticking].filter (·.tick)).length := by decide

end Sys2Proof.Tests
end

/-! ### The outputs, the reset state and the response registers (10_state.md sections 1, 2 and 4) -/

namespace Sys2Proof.Machine

section Outputs
variable (s : State) (rst : Bool)

@[simp] theorem outputs_rxReady : (outputs s rst).rxReady = (!rst && rxReady s) := rfl
@[simp] theorem outputs_txValid : (outputs s rst).txValid = (!rst && txValid s) := rfl
@[simp] theorem outputs_txByte : (outputs s rst).txByte = txByte s := rfl
@[simp] theorem outputs_reqReady : (outputs s rst).reqReady = (!rst && reqReady s) := rfl
@[simp] theorem outputs_rspValid : (outputs s rst).rspValid = (!rst && rspValid s) := rfl
@[simp] theorem outputs_rspStatus : (outputs s rst).rspStatus = s.rspStatus.code := rfl
@[simp] theorem outputs_rspMagic : (outputs s rst).rspMagic = packMagic s.rspFrame := rfl
@[simp] theorem outputs_rspCommand : (outputs s rst).rspCommand = s.rspFrame.command := rfl
@[simp] theorem outputs_rspData : (outputs s rst).rspData = s.rspFrame.data := rfl
@[simp] theorem outputs_rspChecksum : (outputs s rst).rspChecksum = s.rspFrame.checksum := rfl
@[simp] theorem outputs_stOpened : (outputs s rst).stOpened = s.opened := rfl
@[simp] theorem outputs_stBusy : (outputs s rst).stBusy = (s.phase != .idle) := rfl
@[simp] theorem outputs_stRxCount : (outputs s rst).stRxCount = s.rxbuf.length := rfl
@[simp] theorem outputs_stRespqCount : (outputs s rst).stRespqCount = s.respq.length := rfl

end Outputs

/-! ### The functions behind the outputs (R32) -/

/-- A buffer has room exactly when its length is below every bound it has (R9). -/
theorem hasRoom_iff (depth : Option Nat) (n : Nat) : hasRoom depth n = true ↔ ∀ d ∈ depth, n < d := by
  cases depth <;> simp

theorem rxReady_iff (s : State) :
    rxReady s = true ↔ s.opened = false ∨ ∀ d ∈ s.params.rxbufDepth, s.rxbuf.length < d := by
  simp only [rxReady, Bool.or_eq_true, Bool.not_eq_true', hasRoom_iff]

/-- A closed block takes every byte, to discard it (R145). -/
theorem rxReady_of_closed (s : State) (h : s.opened = false) : rxReady s = true := (rxReady_iff s).2 (.inl h)

theorem txValid_iff (s : State) : txValid s = true ↔ s.phase = .hs ∨ s.phase = .tx := by simp [txValid]

theorem reqReady_iff (s : State) : reqReady s = true ↔ s.phase = .idle := by simp [reqReady]

theorem rspValid_iff (s : State) : rspValid s = true ↔ s.phase = .resp := by simp [rspValid]

theorem txByte_eq (s : State) :
    txByte s = if s.phase = .hs then Config.hsByte else if s.phase = .tx then s.txbuf[s.txidx] else 0x00 := by
  unfold txByte
  cases s.phase <;> rfl

/-- The magic of a response lies in wire order, byte 0 least significant (R64). -/
theorem packMagic_byte0 (f : Frame) : (packMagic f).extractLsb' 0 8 = f.m0 :=
  BitVec.extractLsb'_append_eq_right

theorem packMagic_byte1 (f : Frame) : (packMagic f).extractLsb' 8 8 = f.m1 :=
  calc (packMagic f).extractLsb' 8 8
    _ = (f.m2 ++ f.m1).extractLsb' 0 8 := BitVec.extractLsb'_append_eq_of_le (Nat.le_refl 8)
    _ = f.m1 := BitVec.extractLsb'_append_eq_right

theorem packMagic_byte2 (f : Frame) : (packMagic f).extractLsb' 16 8 = f.m2 :=
  calc (packMagic f).extractLsb' 16 8
    _ = (f.m2 ++ f.m1).extractLsb' 8 8 := BitVec.extractLsb'_append_eq_of_le (by decide)
    _ = f.m2 := BitVec.extractLsb'_append_eq_left

/-- Settles O16: the handshake outputs are masked by rst, and each output is its function of the state. -/
theorem outputsFollowState : Obligations.OutputsFollowState := by
  intro s
  simp [rxReady_iff, txValid_iff, txByte_eq, reqReady_iff, rspValid_iff, packMagic_byte0, packMagic_byte1,
    packMagic_byte2]

/-! ### The reset state (R37) -/

section Reset
variable (s : State)

@[simp] theorem resetEdge_phase : (resetEdge s).phase = .idle := rfl
@[simp] theorem resetEdge_txbuf : (resetEdge s).txbuf = #v[0, 0, 0, 0, 0, 0, 0, 0, 0] := rfl
@[simp] theorem resetEdge_txidx : (resetEdge s).txidx = 0 := rfl
@[simp] theorem resetEdge_timer : (resetEdge s).timer = 0 := rfl
@[simp] theorem resetEdge_rspStatus : (resetEdge s).rspStatus = .frame := rfl
@[simp] theorem resetEdge_rspFrame : (resetEdge s).rspFrame = Frame.zero := rfl

end Reset

/-- Settles O17: the step is the reset edge, whose fields give the outputs; the closed block is ready on RX. -/
theorem resetEdgeLeavesResetState : Obligations.ResetEdgeLeavesResetState := by
  intro s hrst
  refine ⟨resetEdge s, step_of_rst s hrst, ?_⟩
  have hrx : rxReady (resetEdge s) = true := rxReady_of_closed _ (resetEdge_opened s)
  simp [hrx, txValid, reqReady, rspValid, Status.code, Frame.zero]

/-! ### The invariants at reset (R29) -/

/-- The "Value taken" column of R8 is legal. -/
theorem legal_default : Params.default.Legal := by decide

/-- The reset state of legal parameters meets the invariants: only the timer's range needs them (TIMEOUT_TICKS >= 1). -/
theorem inv_resetWith (p : Params) (env : List Inputs) (n : Nat) (hp : p.Legal) : Inv (State.resetWith p env n) := by
  have ⟨_, _, hticks⟩ := hp
  have hcap : CapacityInv (State.resetWith p env n) := ⟨fun d _ => Nat.zero_le d, fun d _ => Nat.zero_le d⟩
  have hclosed : ClosedInv (State.resetWith p env n) := fun _ => ⟨rfl, rfl, .inl rfl⟩
  have hactive : ActiveInv (State.resetWith p env n) := by simp [ActiveInv, State.resetWith]
  have htxidx : TxidxInv (State.resetWith p env n) := by simp [TxidxInv, State.resetWith]
  have htimer : TimerInv (State.resetWith p env n) := ⟨hticks, fun _ => rfl⟩
  have hqueue : QueueInv (State.resetWith p env n) := fun f hf => absurd hf List.not_mem_nil
  exact ⟨hp, hcap, hclosed, hactive, htxidx, htimer, .inl rfl, hqueue⟩

/-- Settles O44: the reset state meets the invariants under any legal parameters, the defaults among them. -/
theorem invariantsHoldAtReset : Obligations.InvariantsHoldAtReset :=
  ⟨inv_resetWith _ _ _ legal_default, inv_resetWith⟩

/-! ### The response registers (R26) -/

/-- A row of the table of R222 either keeps the response registers or completes an operation: it enters RESP from another
phase. -/
theorem CtlRow.keeps_response_or_completes {s : State} {inp : Inputs} {c : Ctl} (row : CtlRow s inp c) :
    (c.rspStatus = s.rspStatus ∧ c.rspFrame = s.rspFrame) ∨ (s.phase ≠ .resp ∧ c.phase = .resp) := by
  cases row with
  | idle | transact | openClosed | hsStall | hsNext | txStall | txLast | txNext | waitTick | waitNothing | respTaken
  | respHeld => exact .inl ⟨rfl, rfl⟩
  | transactClosed hp | pollClosed hp | pollFrame hp | pollEmpty hp | openIllegal hp | closeOpen hp | closeClosed hp
  | hsLast hp | waitFrame hp | waitTimeout hp => exact .inr ⟨by simp [hp], rfl⟩

/-- Settles O40: a step with rst = 0 is a clock cycle, whose response registers and phase are those of a row of R222. -/
theorem responseRegistersWrittenOnlyOnCompletion : Obligations.ResponseRegistersWrittenOnlyOnCompletion := by
  intro s t hstep hrst hchanged
  obtain ⟨hrst', -⟩ | ⟨-, rfl⟩ := step_cases hstep
  · simp [hrst] at hrst'
  · obtain ⟨hstatus, hframe⟩ | hcompletes := (ctl_row s (inputOf s)).keeps_response_or_completes
    · exact absurd hchanged (by simp [clockCycle, hstatus, hframe])
    · exact hcompletes

end Sys2Proof.Machine

/-! ### Runs, one cycle at a time -/

namespace Sys2Proof.Machine

/-- A run of one more cycle that ends in a state begins with a step to a state. -/
theorem step_of_run_succ {n : Nat} {s t : State} (h : Host.Core.run core (n + 1) s = .next t) :
    ∃ u, step s = .next u ∧ Host.Core.run core n u = .next t := by
  have hc : core.step s = step s := rfl
  cases hs : step s with
  | next u => exact ⟨u, rfl, run_succ_of_step hs ▸ h⟩
  | fault r | refused r => simp [Host.Core.run, hc, hs] at h

/-- What one more cycle shows comes before what the rest of the run shows. -/
theorem observed_succ_of_step {α : Type} (observe : State → List α) (n : Nat) {s t : State} (h : step s = .next t) :
    observed observe (n + 1) s = observe s ++ observed observe n t := by
  rw [observed, h]

/-- A transport open throughout is open now. -/
theorem OpenThroughout.opened {n : Nat} {s : State} (h : OpenThroughout n s) : s.opened = true :=
  h 0 n.zero_le s rfl

/-- A transport open over one more cycle is open over the rest of the run. -/
theorem OpenThroughout.of_step {n : Nat} {s t : State} (h : OpenThroughout (n + 1) s) (hs : step s = .next t) :
    OpenThroughout n t :=
  fun k hk u hu => h (k + 1) (Nat.succ_le_succ hk) u ((run_succ_of_step hs).trans hu)

/-! ### The response queue (20_memory.md rules R69, R71) -/

/-- A row that pops completes with the head of the queue: POLL or WAIT takes the oldest frame as its response (R173, R178). -/
theorem CtlRow.response_of_pop {s : State} {inp : Inputs} {c : Ctl} (row : CtlRow s inp c) (hpop : c.pop = true) :
    s.respq.head? = some c.rspFrame ∧ c.phase = .resp ∧ c.rspStatus = .frame := by
  cases row with
  | pollFrame hp hr hi ho f q hq | waitFrame hp f q hq => exact ⟨by simp [hq], rfl, rfl⟩
  | idle | transact | transactClosed | pollClosed | pollEmpty | openClosed | openIllegal | closeOpen | closeClosed | hsStall
  | hsLast | hsNext | txStall | txLast | txNext | waitTimeout | waitTick | waitNothing | respTaken | respHeld => cases hpop

/-- A row that leaves the transport open clears nothing: only CLOSE clears, and it closes (R175). -/
theorem CtlRow.clear_of_opened {s : State} {inp : Inputs} {c : Ctl} (row : CtlRow s inp c) (hopen : c.opened = true) :
    c.clear = false := by
  cases row with
  | closeOpen => cases hopen
  | idle | transact | transactClosed | pollClosed | pollFrame | pollEmpty | openClosed | openIllegal | closeClosed | hsStall
  | hsLast | hsNext | txStall | txLast | txNext | waitFrame | waitTimeout | waitTick | waitNothing | respTaken
  | respHeld => rfl

/-- One cycle that ends open loses no queued or published frame and reorders none. -/
theorem step_respq_of_opened {s t : State} (h : step s = .next t) (ho : t.opened = true) :
    s.respq ++ publishedFrame s = takenFrame s ++ t.respq := by
  obtain ⟨-, rfl⟩ | ⟨⟨hrst, -⟩, rfl⟩ := step_cases h
  · cases ho
  · have hclear : (ctl s (inputOf s)).clear = false := (ctl_row s (inputOf s)).clear_of_opened ho
    have hsplit : s.respq.take 1 ++ s.respq.tail = s.respq := by rw [← List.drop_one, List.take_append_drop]
    cases hpop : (ctl s (inputOf s)).pop with
    | false => simp [publishedFrame, takenFrame, clockCycle, hrst, hclear, hpop]
    | true => simp [publishedFrame, takenFrame, clockCycle, hrst, hclear, hpop, ← List.append_assoc, hsplit]

/-- First in, first out over a run: each cycle adds its published frame at one end and its taken frame at the other. -/
theorem respq_append_publishedDuring (n : Nat) {s t : State} (hopen : OpenThroughout n s)
    (hrun : Host.Core.run core n s = .next t) : s.respq ++ publishedDuring n s = takenDuring n s ++ t.respq := by
  induction n generalizing s with
  | zero =>
    cases hrun
    exact List.append_nil _
  | succ n ih =>
    obtain ⟨u, hstep, hrest⟩ := step_of_run_succ hrun
    have hopenu : OpenThroughout n u := hopen.of_step hstep
    calc s.respq ++ publishedDuring (n + 1) s
      _ = s.respq ++ publishedFrame s ++ publishedDuring n u := by
        rw [publishedDuring, observed_succ_of_step _ n hstep, List.append_assoc]
      _ = takenFrame s ++ (u.respq ++ publishedDuring n u) := by
        rw [step_respq_of_opened hstep hopenu.opened, List.append_assoc]
      _ = takenFrame s ++ (takenDuring n u ++ t.respq) := by rw [ih hopenu hrest]
      _ = takenDuring (n + 1) s ++ t.respq := by
        rw [takenDuring, observed_succ_of_step _ n hstep, List.append_assoc]

/-- A frame is taken only in a cycle with rst = 0 whose row of R222 pops, and it is the head of the queue. -/
theorem pop_of_takenFrame {s : State} {f : Frame} (h : takenFrame s = [f]) :
    (inputOf s).rst = false ∧ (ctl s (inputOf s)).pop = true ∧ s.respq.head? = some f := by
  unfold takenFrame at h
  split at h
  · cases h
  · rename_i hrst
    split at h
    · rename_i hpop
      have hhead : s.respq.head? = some f := by simpa [h] using (List.head?_take (l := s.respq) (i := 1)).symm
      exact ⟨by simpa using hrst, hpop, hhead⟩
    · cases h

/-- Settles O55: no cycle that ends open loses or reorders a frame, and a row that pops completes with the head. -/
theorem responseQueueIsFirstInFirstOut : Obligations.ResponseQueueIsFirstInFirstOut := by
  refine ⟨fun n _ _ => respq_append_publishedDuring n, fun s t f hstep htaken => ?_⟩
  obtain ⟨hrst, hpop, hhead⟩ := pop_of_takenFrame htaken
  obtain ⟨hrst', -⟩ | ⟨-, rfl⟩ := step_cases hstep
  · simp [hrst] at hrst'
  · obtain ⟨hresponse, hphase, hstatus⟩ := (ctl_row s (inputOf s)).response_of_pop hpop
    have hframe : (ctl s (inputOf s)).rspFrame = f := Option.some.inj (hresponse.symm.trans hhead)
    exact ⟨hhead, hphase, hstatus, hframe⟩

end Sys2Proof.Machine

/-! ### The codec's bytes and the request word (30_encoding.md sections 1, 2 and 5) -/

namespace Sys2Proof

/-- Data byte `k`, as the slice of R63. -/
@[simp] theorem dataByte_eq (data : Word32) (k : Nat) : dataByte data k = data.extractLsb' (8 * k) 8 := rfl

/-- The assembled word is its four bytes laid side by side, wire byte 7 at the top (R82). -/
theorem assembleData_eq_append (w4 w5 w6 w7 : Byte) : assembleData w4 w5 w6 w7 = w7 ++ w6 ++ w5 ++ w4 := by
  ext i hi
  simp only [assembleData, BitVec.getElem_or, BitVec.getElem_shiftLeft, BitVec.getElem_setWidth]
  grind

section Assembly
variable (w4 w5 w6 w7 : Byte)

@[simp] theorem assembleData_byte0 : (assembleData w4 w5 w6 w7).extractLsb' 0 8 = w4 := by
  rw [assembleData_eq_append, BitVec.extractLsb'_append_eq_right]

@[simp] theorem assembleData_byte1 : (assembleData w4 w5 w6 w7).extractLsb' 8 8 = w5 := by
  rw [assembleData_eq_append, BitVec.extractLsb'_append_eq_of_le (by decide), BitVec.extractLsb'_append_eq_right]

@[simp] theorem assembleData_byte2 : (assembleData w4 w5 w6 w7).extractLsb' 16 8 = w6 := by
  rw [assembleData_eq_append, BitVec.extractLsb'_append_eq_of_le (by decide),
    BitVec.extractLsb'_append_eq_of_le (by decide), BitVec.extractLsb'_append_eq_right]

@[simp] theorem assembleData_byte3 : (assembleData w4 w5 w6 w7).extractLsb' 24 8 = w7 := by
  rw [assembleData_eq_append, BitVec.extractLsb'_append_eq_of_le (by decide),
    BitVec.extractLsb'_append_eq_of_le (by decide), BitVec.extractLsb'_append_eq_left]

end Assembly

/-- Assembling the bytes of a word joins adjacent slices until the whole word is back. -/
@[simp] theorem assembleData_bytes (d : Word32) :
    assembleData (d.extractLsb' 0 8) (d.extractLsb' 8 8) (d.extractLsb' 16 8) (d.extractLsb' 24 8) = d :=
  calc assembleData (d.extractLsb' 0 8) (d.extractLsb' 8 8) (d.extractLsb' 16 8) (d.extractLsb' 24 8)
    _ = d.extractLsb' 24 8 ++ d.extractLsb' 16 8 ++ d.extractLsb' 8 8 ++ d.extractLsb' 0 8 :=
      assembleData_eq_append ..
    _ = d.extractLsb' 16 16 ++ d.extractLsb' 8 8 ++ d.extractLsb' 0 8 := by
      rw [BitVec.extractLsb'_append_extractLsb'_eq_extractLsb' (start₁ := 16) (len₁ := 8) rfl]
    _ = d.extractLsb' 8 24 ++ d.extractLsb' 0 8 := by
      rw [BitVec.extractLsb'_append_extractLsb'_eq_extractLsb' (start₁ := 8) (len₁ := 8) rfl]
    _ = d := BitVec.extractLsb'_append_extractLsb'

/-- Settles O3: the bytes of the assembled word are its slices, and the slices of a word assemble to it. -/
theorem dataBytesAssembleLittleEndian : Obligations.DataBytesAssembleLittleEndian :=
  ⟨fun _ _ _ _ => ⟨rfl, assembleData_byte0 .., assembleData_byte1 .., assembleData_byte2 .., assembleData_byte3 ..⟩,
    assembleData_bytes⟩

/-! #### Request words -/

section Pack
variable (op : BitVec 2) (command : Byte) (data : Word32)

@[simp] theorem packRequest_op : (packRequest op command data).extractLsb' 40 2 = op := by
  rw [packRequest, BitVec.extractLsb'_append_eq_of_le (by decide), BitVec.extractLsb'_append_eq_left]

@[simp] theorem packRequest_command : (packRequest op command data).extractLsb' 32 8 = command := by
  rw [packRequest, BitVec.extractLsb'_append_eq_of_le (by decide), BitVec.extractLsb'_append_eq_right]

@[simp] theorem packRequest_data : (packRequest op command data).extractLsb' 0 32 = data := by
  rw [packRequest, BitVec.extractLsb'_append_eq_right]

end Pack

section Operation
variable {w : BitVec 42}

theorem decodeRequest_eq_transact (h : w.extractLsb' 40 2 = 0#2) :
    decodeRequest w = .transact (w.extractLsb' 32 8) (w.extractLsb' 0 32) := by
  simp [decodeRequest, h]

theorem decodeRequest_eq_poll (h : w.extractLsb' 40 2 = 1#2) : decodeRequest w = .poll := by
  simp [decodeRequest, h]

theorem decodeRequest_eq_openPort (h : w.extractLsb' 40 2 = 2#2) : decodeRequest w = .openPort := by
  simp [decodeRequest, h]

theorem decodeRequest_eq_closePort (h : w.extractLsb' 40 2 = 3#2) : decodeRequest w = .closePort := by
  simp [decodeRequest, h]

end Operation

/-- The mask of R93 keeps the operation field and clears everything below it. -/
theorem and_requestMask (w : BitVec 42) : w &&& 0x30000000000#42 = w.extractLsb' 40 2 ++ 0#40 :=
  calc w &&& 0x30000000000#42
    _ = (w.extractLsb' 40 2 ++ w.extractLsb' 0 40) &&& (BitVec.allOnes 2 ++ 0#40) :=
      congrArg (· &&& 0x30000000000#42) (BitVec.extractLsb'_append_extractLsb' (w := 2) (len := 40)).symm
    _ = (w.extractLsb' 40 2 &&& BitVec.allOnes 2) ++ (w.extractLsb' 0 40 &&& 0#40) := BitVec.and_append
    _ = w.extractLsb' 40 2 ++ 0#40 := by rw [BitVec.and_allOnes, BitVec.and_zero]

/-- A word matches the pattern of an operation exactly when its operation field is that operation (R93). -/
theorem and_requestMask_eq_iff (w : BitVec 42) (op : BitVec 2) :
    w &&& 0x30000000000#42 = op ++ 0#40 ↔ w.extractLsb' 40 2 = op := by
  rw [and_requestMask]
  constructor
  · intro h
    simpa only [BitVec.extractLsb'_append_eq_left] using congrArg (BitVec.extractLsb' 40 2) h
  · rintro rfl
    rfl

/-- Settles O10: the four matches are the four values of the operation field. -/
theorem requestWordsSelectOneOperation : Obligations.RequestWordsSelectOneOperation := by
  refine ⟨fun w => ?_, fun _ => rfl⟩
  have h0 := and_requestMask_eq_iff w 0#2
  have h1 := and_requestMask_eq_iff w 1#2
  have h2 := and_requestMask_eq_iff w 2#2
  have h3 := and_requestMask_eq_iff w 3#2
  have four : ∀ op : BitVec 2, op = 0#2 ∨ op = 1#2 ∨ op = 2#2 ∨ op = 3#2 := by decide
  refine ⟨fun h => decodeRequest_eq_transact (h0.1 h), fun h => decodeRequest_eq_poll (h1.1 h),
    fun h => decodeRequest_eq_openPort (h2.1 h), fun h => decodeRequest_eq_closePort (h3.1 h), ?_⟩
  exact (four (w.extractLsb' 40 2)).imp h0.2 (Or.imp h1.2 (Or.imp h2.2 h3.2))

/-! ### Decoding and encoding (30_encoding.md sections 1 to 5) -/

theorem Frame.checksumRight_iff (f : Frame) : f.checksumRight = true ↔ Sys2Proof.checksum f.command f.data = f.checksum :=
  beq_iff_eq

theorem Frame.magicRight_iff (f : Frame) :
    f.magicRight = true ↔ (f.m0, f.m1, f.m2) = (Config.magic0, Config.magic1, Config.magic2) := by
  simp [Frame.magicRight, and_assoc]

/-- A valid frame (R15): the checksum of R83 and, when CHECK_MAGIC = 1, the magic of R84. -/
theorem Frame.wf_iff (cm : Bool) (f : Frame) :
    f.wf cm = true ↔ Sys2Proof.checksum f.command f.data = f.checksum ∧
      (cm = true → (f.m0, f.m1, f.m2) = (Config.magic0, Config.magic1, Config.magic2)) := by
  rw [Frame.wf, Bool.and_eq_true, f.checksumRight_iff]
  cases cm <;> simp [f.magicRight_iff]

/-- DECODE takes the wire bytes of a valid frame back to it (R124, R126). -/
theorem decodeFrame_wireBytes {cm : Bool} {f : Frame} (h : f.wf cm = true) : decodeFrame cm (wireBytes f) = .ok f := by
  obtain ⟨hsum, hmagic⟩ := (f.wf_iff cm).1 h
  rw [checksum] at hsum
  have hdata : assembleData (dataByte f.data 0) (dataByte f.data 1) (dataByte f.data 2) (dataByte f.data 3) = f.data :=
    assembleData_bytes f.data
  rw [wireBytes, decodeFrame, if_neg (not_not.2 hsum), if_neg fun ⟨hcm, hne⟩ => hne (hmagic hcm), hdata]

/-- DECODE answers only valid frames, and only from their own wire bytes (R124). -/
theorem wireBytes_of_decodeFrame {cm : Bool} {w : List Byte} {f : Frame} (h : decodeFrame cm w = .ok f) :
    wireBytes f = w ∧ f.wf cm = true := by
  unfold decodeFrame at h
  split at h
  · split at h
    · cases h
    · rename_i hsum
      split at h
      · cases h
      · rename_i hmagic
        cases h
        refine ⟨by simp [wireBytes], (Frame.wf_iff ..).2 ⟨?_, ?_⟩⟩
        · simpa [checksum] using hsum
        · simpa using hmagic
  · cases h

/-- DECODE inverts the wire layout on valid frames, and succeeds nowhere else (R124, R126). -/
theorem decodeFrame_eq_ok_iff {cm : Bool} {w : List Byte} {f : Frame} :
    decodeFrame cm w = .ok f ↔ wireBytes f = w ∧ f.wf cm = true :=
  ⟨wireBytes_of_decodeFrame, fun ⟨hw, h⟩ => hw ▸ decodeFrame_wireBytes h⟩

section Decode
variable {cm : Bool} {i : Instr}

theorem decode_frame_eq_ok_iff {w : List Byte} :
    decode cm (.frame w) = .ok i ↔ ∃ f, i = .frame f ∧ decodeFrame cm w = .ok f := by
  cases hd : decodeFrame cm w <;> simp [decode, hd, eq_comm]

theorem decode_handshake_eq_ok_iff {w : List Byte} :
    decode cm (.handshake w) = .ok i ↔ i = .handshake ∧ w = [Config.hsByte, Config.hsByte, Config.hsByte] := by
  simp only [decode]
  split <;> simp_all [eq_comm]

theorem decode_command_eq_ok_iff {b : Byte} : decode cm (.command b) = .ok i ↔ decodeCommand b = some i := by
  cases hd : decodeCommand b <;> simp [decode, hd]

/-- The three command bytes the source names (R85, R87). -/
theorem decodeCommand_eq_some_iff {b : Byte} :
    decodeCommand b = some i ↔
      (i = .cmdOk ∧ b = 0x00) ∨ (i = .cmdGetState ∧ b = 0x03) ∨ (i = .cmdError ∧ b = 0xFF) := by
  unfold decodeCommand
  split_ifs <;> simp [*, eq_comm]

end Decode

/-- Settles O12: a request word's fields give the operands back, DECODE inverts a valid frame's wire bytes, and the other
encodings are fixed. -/
theorem decodeInvertsEncode : Obligations.DecodeInvertsEncode := by
  intro cm i hwf
  cases i with
  | transact command data =>
    have h := decodeRequest_eq_transact (packRequest_op 0 command data)
    rw [packRequest_command, packRequest_data] at h
    exact congrArg Except.ok h
  | poll => exact congrArg Except.ok (decodeRequest_eq_poll (packRequest_op 1 0 0))
  | openPort => exact congrArg Except.ok (decodeRequest_eq_openPort (packRequest_op 2 0 0))
  | closePort => exact congrArg Except.ok (decodeRequest_eq_closePort (packRequest_op 3 0 0))
  | frame f => exact decode_frame_eq_ok_iff.2 ⟨f, rfl, decodeFrame_eq_ok_iff.2 ⟨rfl, hwf⟩⟩
  | handshake | cmdOk | cmdGetState | cmdError => rfl

/-- Settles O13: each format's decoder answers only its own rows, and a wire format only from the bytes `encode` writes. -/
theorem wireEncodingsAreUnique : Obligations.WireEncodingsAreUnique := by
  intro cm c i h
  cases c with
  | request w =>
    cases h
    rcases Machine.decodeRequest_cases w with hd | hd | hd | hd <;> rw [hd] <;>
      exact ⟨rfl, rfl, fun hne => absurd rfl hne⟩
  | frame w =>
    obtain ⟨f, rfl, hd⟩ := decode_frame_eq_ok_iff.1 h
    obtain ⟨rfl, hwf⟩ := decodeFrame_eq_ok_iff.1 hd
    exact ⟨hwf, rfl, fun _ => rfl⟩
  | handshake w =>
    obtain ⟨rfl, rfl⟩ := decode_handshake_eq_ok_iff.1 h
    exact ⟨rfl, rfl, fun _ => rfl⟩
  | command b =>
    have hd := decode_command_eq_ok_iff.1 h
    obtain ⟨rfl, rfl⟩ | ⟨rfl, rfl⟩ | ⟨rfl, rfl⟩ := decodeCommand_eq_some_iff.1 hd <;>
      exact ⟨rfl, rfl, fun _ => rfl⟩

/-- Settles O11: the words are literals, and each is evaluated through the table's formats and the decoder. -/
theorem tableWordsDecodeToTheirRows : Obligations.TableWordsDecodeToTheirRows := by
  unfold Obligations.TableWordsDecodeToTheirRows
  decide

end Sys2Proof

/-! ### The response port and the command bytes (30_encoding.md sections 2 and 5) -/

namespace Sys2Proof.Machine

section ResponseWord
variable (s : State)

theorem responseWord_status : (responseWord s).extractLsb' 72 3 = s.rspStatus.code := by
  rw [responseWord]
  iterate 3 rw [BitVec.extractLsb'_append_eq_of_le (by decide)]
  rw [BitVec.extractLsb'_append_eq_left]

theorem responseWord_magic : (responseWord s).extractLsb' 48 24 = packMagic s.rspFrame := by
  rw [responseWord]
  iterate 3 rw [BitVec.extractLsb'_append_eq_of_le (by decide)]
  rw [BitVec.extractLsb'_append_eq_right]

theorem responseWord_m0 : (responseWord s).extractLsb' 48 8 = s.rspFrame.m0 := by
  rw [responseWord]
  iterate 3 rw [BitVec.extractLsb'_append_eq_of_le (by decide)]
  rw [BitVec.extractLsb'_append_eq_of_add_le (by decide)]
  exact packMagic_byte0 s.rspFrame

theorem responseWord_command : (responseWord s).extractLsb' 40 8 = s.rspFrame.command := by
  rw [responseWord]
  iterate 2 rw [BitVec.extractLsb'_append_eq_of_le (by decide)]
  rw [BitVec.extractLsb'_append_eq_right]

theorem responseWord_data : (responseWord s).extractLsb' 8 32 = s.rspFrame.data := by
  rw [responseWord, BitVec.extractLsb'_append_eq_of_le (by decide), BitVec.extractLsb'_append_eq_right]

theorem responseWord_checksum : (responseWord s).extractLsb' 0 8 = s.rspFrame.checksum := by
  rw [responseWord, BitVec.extractLsb'_append_eq_right]

end ResponseWord

/-- A response is transferred when it is offered and taken (R94). -/
theorem rspFire_iff (s : State) (inp : Inputs) : rspFire s inp = true ↔ rspValid s = true ∧ inp.rspReady = true :=
  Bool.and_eq_true_iff

/-- Settles O14: the offer is phase RESP, and each output is its slice of the response word. -/
theorem responseWordLayout : Obligations.ResponseWordLayout := fun s inp =>
  ⟨rspValid_iff s, rspFire_iff s inp, responseWord_status s, responseWord_magic s, responseWord_m0 s,
    responseWord_command s, responseWord_data s, responseWord_checksum s⟩

/-- Codes 6 and 7 belong to no status (R96). -/
theorem Status.code_ne (st : Status) : st.code ≠ 6 ∧ st.code ≠ 7 := by
  cases st <;> decide

/-- Settles O15: the status output is the code of the status register, and a status is one of its six constructors. -/
theorem statusCodesAreSix : Obligations.StatusCodesAreSix := by
  refine ⟨Status.code_ne, fun s _ => s.rspStatus.code_ne, fun st => ?_, rfl, rfl, rfl, rfl, rfl, rfl⟩
  cases st <;> simp

/-! #### Command bytes on RX -/

/-- A byte offered on RX is appended exactly while the transport is open and has room (R141, R142, R145). -/
theorem rxAppend_some (s : State) (b : Byte) :
    rxAppend s (some b) = if s.opened && hasRoom s.params.rxbufDepth s.rxbuf.length then [b] else [] := by
  cases ho : s.opened <;> simp [rxAppend, rxReady, ho]

/-- The byte on RX decides nothing in a cycle but what `rxbuf` gains. -/
theorem edge_offer (s : State) (offer offer' : Option Byte) (sc : Scan) (c : Ctl) :
    edge s offer' sc c =
      { edge s offer sc c with rxbuf := if c.clear then [] else sc.rxbuf ++ rxAppend s offer' } := rfl

/-- A cycle in which `b` is offered is the plain cycle but for what `rxbuf` gains (R142). -/
theorem receiveByte_eq (b : Byte) (s : State) :
    receiveByte b s =
      { clockCycle s with
        rxbuf :=
          if (ctl s (inputOf s)).clear then []
          else (readerScan s).rxbuf ++
            (if s.opened && hasRoom s.params.rxbufDepth s.rxbuf.length then [b] else []) } := by
  rw [← rxAppend_some]
  exact edge_offer ..

/-- Running a command byte's row is receiving its byte (R86). -/
theorem exec_of_decodeCommand {b : Byte} {i : Instr} (h : decodeCommand b = some i) (s : State) :
    exec i s = .next (receiveByte b s) := by
  obtain ⟨rfl, rfl⟩ | ⟨rfl, rfl⟩ | ⟨rfl, rfl⟩ := decodeCommand_eq_some_iff.1 h <;> rfl

/-- Settles O32: the three rows are the command bytes that decode, and running each receives its byte. -/
theorem commandBytesAreReceivedAlike : Obligations.CommandBytesAreReceivedAlike := by
  intro s i b h
  rw [exec_of_decodeCommand (decodeCommand_eq_some_iff.2 h), receiveByte_eq]

end Sys2Proof.Machine

/-! ### The codec (40_codec.md) -/

namespace Sys2Proof

/-! #### DECODE's answers (R124, R125) -/

/-- The bytes of a list of length FRAME_LEN. -/
theorem exists_bytes_of_length_nine {w : List Byte} (h : w.length = 9) :
    ∃ w0 w1 w2 w3 w4 w5 w6 w7 w8, w = [w0, w1, w2, w3, w4, w5, w6, w7, w8] := by
  match w, h with
  | [w0, w1, w2, w3, w4, w5, w6, w7, w8], _ => exact ⟨w0, w1, w2, w3, w4, w5, w6, w7, w8, rfl⟩

theorem decodeFrame_invalidSize (cm : Bool) {w : List Byte} (h : w.length ≠ 9) : decodeFrame cm w = .err .invalidSize := by
  unfold decodeFrame
  split
  · exact absurd rfl h
  · rfl

section NineBytes
variable {cm : Bool} {w0 w1 w2 w3 w4 w5 w6 w7 w8 : Byte}

theorem decodeFrame_checksumMismatch (hsum : w3 ^^^ w4 ^^^ w5 ^^^ w6 ^^^ w7 ≠ w8) :
    decodeFrame cm [w0, w1, w2, w3, w4, w5, w6, w7, w8] = .err .checksumMismatch :=
  if_pos hsum

theorem decodeFrame_badMagic (hsum : w3 ^^^ w4 ^^^ w5 ^^^ w6 ^^^ w7 = w8)
    (hmagic : (w0, w1, w2) ≠ (Config.magic0, Config.magic1, Config.magic2)) :
    decodeFrame true [w0, w1, w2, w3, w4, w5, w6, w7, w8] = .err .badMagic := by
  rw [decodeFrame, if_neg (not_not.2 hsum), if_pos ⟨rfl, hmagic⟩]

theorem decodeFrame_ok (hsum : w3 ^^^ w4 ^^^ w5 ^^^ w6 ^^^ w7 = w8)
    (hmagic : cm = true → (w0, w1, w2) = (Config.magic0, Config.magic1, Config.magic2)) :
    decodeFrame cm [w0, w1, w2, w3, w4, w5, w6, w7, w8] =
      .ok { m0 := w0, m1 := w1, m2 := w2, command := w3, data := assembleData w4 w5 w6 w7, checksum := w8 } := by
  rw [decodeFrame, if_neg (not_not.2 hsum), if_neg fun ⟨hcm, hne⟩ => hne (hmagic hcm)]

/-- DECODE is Ok exactly when both equations of R123 hold. -/
theorem exists_decodeFrame_ok_iff :
    (∃ f, decodeFrame cm [w0, w1, w2, w3, w4, w5, w6, w7, w8] = .ok f) ↔
      w3 ^^^ w4 ^^^ w5 ^^^ w6 ^^^ w7 = w8 ∧ (cm = true → (w0, w1, w2) = (Config.magic0, Config.magic1, Config.magic2)) := by
  constructor
  · rintro ⟨f, hf⟩
    obtain ⟨hw, hwf⟩ := wireBytes_of_decodeFrame hf
    obtain ⟨hsum, hmagic⟩ := (f.wf_iff cm).1 hwf
    cases hw
    exact ⟨hsum, hmagic⟩
  · rintro ⟨hsum, hmagic⟩
    exact ⟨_, decodeFrame_ok hsum hmagic⟩

end NineBytes

/-- The magic clause of R123: CHECK_MAGIC = 0, or the three bytes A5 AA AA. -/
theorem magicClause_iff {cm : Bool} {w0 w1 w2 : Byte} :
    (cm = false ∨ (w0 = 0xA5 ∧ w1 = 0xAA ∧ w2 = 0xAA)) ↔
      (cm = true → (w0, w1, w2) = (Config.magic0, Config.magic1, Config.magic2)) := by
  cases cm <;> simp

/-- Settles O4: both sides force nine bytes, whose two equations DECODE checks. -/
theorem validExactlyWhenDecodeIsOk : Obligations.ValidExactlyWhenDecodeIsOk := by
  intro cm w
  by_cases hlen : w.length = 9
  · obtain ⟨w0, w1, w2, w3, w4, w5, w6, w7, w8, rfl⟩ := exists_bytes_of_length_nine hlen
    rw [exists_decodeFrame_ok_iff, ← magicClause_iff]
    exact and_iff_right hlen
  · simp [hlen, decodeFrame_invalidSize cm hlen]

/-- Settles O5: each check of R125 decides under the earlier ones. -/
theorem decodeChecksLengthThenChecksumThenMagic : Obligations.DecodeChecksLengthThenChecksumThenMagic := by
  refine fun cm w => ⟨decodeFrame_invalidSize cm, fun hlen => ?_⟩
  obtain ⟨w0, w1, w2, w3, w4, w5, w6, w7, w8, rfl⟩ := exists_bytes_of_length_nine hlen
  refine ⟨decodeFrame_checksumMismatch, fun hsum => ⟨?_, fun hmagic => decodeFrame_ok hsum (magicClause_iff.1 hmagic)⟩⟩
  rintro rfl hmagic
  exact decodeFrame_badMagic hsum fun h => hmagic (by simpa using h)

/-! #### ENCODE against DECODE (R120, R121, R126) -/

/-- ENCODE writes the wire bytes of the frame with the constant magic and the computed checksum. -/
theorem encodeFrame_toList (c : Byte) (d : Word32) :
    (encodeFrame c d).toList =
      wireBytes { m0 := 0xA5, m1 := 0xAA, m2 := 0xAA, command := c, data := d, checksum := checksum c d } := rfl

theorem decodeFrame_encodeFrame (cm : Bool) (c : Byte) (d : Word32) :
    decodeFrame cm (encodeFrame c d).toList =
      .ok { m0 := 0xA5, m1 := 0xAA, m2 := 0xAA, command := c, data := d, checksum := checksum c d } := by
  rw [encodeFrame_toList]
  exact decodeFrame_wireBytes ((Frame.wf_iff ..).2 ⟨rfl, fun _ => rfl⟩)

/-- What decodes with the magic of the protocol is what ENCODE writes. -/
theorem encodeFrame_of_decodeFrame {cm : Bool} {w : List Byte} {f : Frame} (h : decodeFrame cm w = .ok f)
    (h0 : f.m0 = 0xA5) (h1 : f.m1 = 0xAA) (h2 : f.m2 = 0xAA) : (encodeFrame f.command f.data).toList = w := by
  obtain ⟨hw, hwf⟩ := wireBytes_of_decodeFrame h
  obtain ⟨hsum, -⟩ := (f.wf_iff cm).1 hwf
  simp only [← hw, encodeFrame_toList, wireBytes, hsum, h0, h1, h2]

/-- With CHECK_MAGIC = 1 every frame DECODE answers has the magic of the protocol. -/
theorem magic_of_decodeFrame_true {w : List Byte} {f : Frame} (h : decodeFrame true w = .ok f) :
    f.m0 = 0xA5 ∧ f.m1 = 0xAA ∧ f.m2 = 0xAA := by
  obtain ⟨-, hwf⟩ := wireBytes_of_decodeFrame h
  obtain ⟨-, hmagic⟩ := (f.wf_iff true).1 hwf
  simpa using hmagic rfl

/-- Settles O1: the formula is the definition, and a byte cancels itself. -/
theorem checksumXorsCommandAndDataBytes : Obligations.ChecksumXorsCommandAndDataBytes :=
  ⟨fun _ _ => rfl, fun d => by simp [checksum, BitVec.xor_assoc], by decide⟩

/-- Settles O2: the bytes are the definition's, and the examples are evaluated. -/
theorem encodeWritesMagicCommandDataChecksum : Obligations.EncodeWritesMagicCommandDataChecksum :=
  ⟨fun _ _ => rfl, by decide⟩

/-- Settles O6: DECODE inverts the wire bytes, and only the constant magic is missing from them. -/
theorem codecRoundTrip : Obligations.CodecRoundTrip := by
  refine ⟨decodeFrame_encodeFrame, fun _ _ _ => encodeFrame_of_decodeFrame, fun w f h => ?_⟩
  obtain ⟨h0, h1, h2⟩ := magic_of_decodeFrame_true h
  exact ⟨h0, h1, h2, encodeFrame_of_decodeFrame h h0 h1 h2⟩

/-! #### Corruption of bytes 3 to 8 (R127, R128) -/

/-- The exclusive-or of a list of bytes. A nine-byte window's checksum equation says it is zero over bytes 3 to 8
(`checksumEquation_iff`). -/
def xorBytes (l : List Byte) : Byte := l.foldr (· ^^^ ·) 0#8

@[simp] theorem xorBytes_nil : xorBytes [] = 0#8 := rfl
@[simp] theorem xorBytes_cons (b : Byte) (l : List Byte) : xorBytes (b :: l) = b ^^^ xorBytes l := rfl

/-- The checksum equation of R123 over the six bytes it reads. -/
theorem checksumEquation_iff {w3 w4 w5 w6 w7 w8 : Byte} :
    w3 ^^^ w4 ^^^ w5 ^^^ w6 ^^^ w7 = w8 ↔ xorBytes [w3, w4, w5, w6, w7, w8] = 0#8 := by
  simp [← BitVec.xor_eq_zero_iff, BitVec.xor_assoc]

/-- Corrupting bytes adds the corruption to their exclusive-or. -/
theorem xorBytes_zipWith_xor {l es : List Byte} (h : l.length = es.length) :
    xorBytes (List.zipWith (· ^^^ ·) l es) = xorBytes l ^^^ xorBytes es := by
  induction l generalizing es with
  | nil =>
    obtain rfl := List.length_eq_zero_iff.1 h.symm
    rfl
  | cons b l ih =>
    cases es with
    | nil => cases h
    | cons e es =>
      simp only [List.zipWith_cons_cons, xorBytes_cons, ih (Nat.succ.inj h)]
      ac_rfl

/-- Corrupting one byte adds its corruption. -/
theorem xorBytes_set_xor {l : List Byte} {k : Nat} (h : k < l.length) (e : Byte) :
    xorBytes (l.set k (l.getD k 0 ^^^ e)) = xorBytes l ^^^ e := by
  induction l generalizing k with
  | nil => cases h
  | cons b l ih =>
    cases k with
    | zero =>
      simp only [List.set_cons_zero, List.getD_cons_zero, xorBytes_cons]
      ac_rfl
    | succ k =>
      simp only [List.set_cons_succ, List.getD_cons_succ, xorBytes_cons, ih (Nat.lt_of_succ_lt_succ h)]
      ac_rfl

/-- Each bit of the exclusive-or is the parity of that bit over the bytes. -/
theorem getLsbD_xorBytes (l : List Byte) (j : Nat) :
    (xorBytes l).getLsbD j = decide ((l.filter (·.getLsbD j)).length % 2 = 1) := by
  induction l with
  | nil => simp
  | cons b l ih =>
    rw [xorBytes_cons, BitVec.getLsbD_xor, ih]
    cases hb : b.getLsbD j with
    | false => simp [hb]
    | true =>
      have hcount : ((b :: l).filter (·.getLsbD j)).length = (l.filter (·.getLsbD j)).length + 1 := by simp [hb]
      rw [hcount, Bool.true_xor, ← decide_not]
      exact decide_eq_decide.2 (by omega)

/-- The exclusive-or is zero exactly when every bit position is set in an even number of the bytes. -/
theorem xorBytes_eq_zero_iff (l : List Byte) :
    xorBytes l = 0#8 ↔ ∀ j < 8, (l.filter (fun e => e.getLsbD j)).length % 2 = 0 := by
  simp [BitVec.eq_of_getLsbD_eq_iff, getLsbD_xorBytes]

/-- Settles O8: the corruption leaves the magic alone and adds its exclusive-or to a checksum equation that held. -/
theorem undetectedCorruptionFlipsEvenly : Obligations.UndetectedCorruptionFlipsEvenly := by
  refine ⟨fun cm w0 w1 w2 w3 w4 w5 w6 w7 w8 f hok e3 e4 e5 e6 e7 e8 => ?_, by decide⟩
  obtain ⟨hsum, hmagic⟩ := exists_decodeFrame_ok_iff.1 ⟨f, hok⟩
  have hxor : xorBytes [w3 ^^^ e3, w4 ^^^ e4, w5 ^^^ e5, w6 ^^^ e6, w7 ^^^ e7, w8 ^^^ e8] =
      xorBytes [w3, w4, w5, w6, w7, w8] ^^^ xorBytes [e3, e4, e5, e6, e7, e8] :=
    xorBytes_zipWith_xor (l := [w3, w4, w5, w6, w7, w8]) (es := [e3, e4, e5, e6, e7, e8]) rfl
  rw [exists_decodeFrame_ok_iff, and_iff_left hmagic, checksumEquation_iff, hxor, checksumEquation_iff.1 hsum,
    BitVec.zero_xor, xorBytes_eq_zero_iff]

/-- A nine-byte list whose last six bytes do not cancel fails the checksum. -/
theorem decodeFrame_checksumMismatch_of_xorBytes (cm : Bool) {m0 m1 m2 : Byte} {l : List Byte} (hlen : l.length = 6)
    (h : xorBytes l ≠ 0#8) : decodeFrame cm (m0 :: m1 :: m2 :: l) = .err .checksumMismatch := by
  match l, hlen with
  | [w3, w4, w5, w6, w7, w8], _ => exact decodeFrame_checksumMismatch (mt checksumEquation_iff.1 h)

/-- Corrupting one of bytes 3 to 8 of a valid frame is detected. -/
theorem decodeFrame_set_xor {cm : Bool} {w : List Byte} {f : Frame} (hok : decodeFrame cm w = .ok f) (cm' : Bool)
    {k : Nat} (hk : k < 6) {e : Byte} (he : e ≠ 0#8) :
    decodeFrame cm' (w.set (k + 3) (w.getD (k + 3) 0 ^^^ e)) = .err .checksumMismatch := by
  obtain ⟨w0, w1, w2, w3, w4, w5, w6, w7, w8, rfl⟩ := exists_bytes_of_length_nine (Machine.decodeFrame_ok_length hok)
  obtain ⟨hsum, -⟩ := exists_decodeFrame_ok_iff.1 ⟨f, hok⟩
  have hxor := xorBytes_set_xor (l := [w3, w4, w5, w6, w7, w8]) hk e
  rw [checksumEquation_iff.1 hsum, BitVec.zero_xor] at hxor
  exact decodeFrame_checksumMismatch_of_xorBytes cm' (by simp) fun h => he (hxor.symm.trans h)

/-- An encoded frame under any other magic: BadMagic where the magic is checked, Ok with it where it is not. -/
theorem decodeFrame_otherMagic (c : Byte) (d : Word32) {m0 m1 m2 : Byte}
    (h : (m0, m1, m2) ≠ (Config.magic0, Config.magic1, Config.magic2)) :
    decodeFrame true (wireBytes { m0, m1, m2, command := c, data := d, checksum := checksum c d }) = .err .badMagic ∧
    decodeFrame false (wireBytes { m0, m1, m2, command := c, data := d, checksum := checksum c d }) =
      .ok { m0, m1, m2, command := c, data := d, checksum := checksum c d } :=
  ⟨decodeFrame_badMagic rfl h, decodeFrame_wireBytes ((Frame.wf_iff ..).2 ⟨rfl, nofun⟩)⟩

/-- Settles O7: a flip in bytes 3 to 8 breaks the checksum equation, one in bytes 0 to 2 only the magic. -/
theorem singleBitFlipIsDetected : Obligations.SingleBitFlipIsDetected := by
  intro c d i j hi hj
  have hflip : 1#8 <<< j ≠ 0#8 := (by decide : ∀ j < 8, 1#8 <<< j ≠ 0#8) j hj
  have hne (b : Byte) : b ^^^ (1#8 <<< j) ≠ b := fun h => hflip (by simpa using h)
  refine ⟨fun h3 cm => ?_, fun h3 => ?_⟩
  · obtain ⟨k, rfl⟩ := Nat.exists_eq_add_of_le' h3
    exact decodeFrame_set_xor (decodeFrame_encodeFrame cm c d) cm (by omega) hflip
  · interval_cases i
    · exact decodeFrame_otherMagic c d fun h => hne Config.magic0 (Prod.mk.inj h).1
    · exact decodeFrame_otherMagic c d fun h => hne Config.magic1 (Prod.mk.inj (Prod.mk.inj h).2).1
    · exact decodeFrame_otherMagic c d fun h => hne Config.magic2 (Prod.mk.inj (Prod.mk.inj h).2).2

/-! #### Constant windows (R129) -/

/-- The frame whose every byte is `b`. -/
def Frame.constant (b : Byte) : Frame :=
  { m0 := b, m1 := b, m2 := b, command := b, data := b ++ b ++ b ++ b, checksum := b }

theorem wireBytes_constant (b : Byte) : wireBytes (Frame.constant b) = List.replicate 9 b := by
  simp [wireBytes, Frame.constant, ← assembleData_eq_append, List.replicate]

theorem decodeFrame_constant (b : Byte) : decodeFrame false (List.replicate 9 b) = .ok (Frame.constant b) := by
  have hsum : checksum b (b ++ b ++ b ++ b) = b := by simp [checksum, ← assembleData_eq_append]
  rw [← wireBytes_constant]
  exact decodeFrame_wireBytes ((Frame.wf_iff ..).2 ⟨hsum, nofun⟩)

theorem decodeFrame_constant_badMagic (b : Byte) : decodeFrame true (List.replicate 9 b) = .err .badMagic :=
  decodeFrame_badMagic (by simp) fun h => by
    obtain ⟨h0, h12⟩ := Prod.mk.inj h
    exact absurd (h0.symm.trans (Prod.mk.inj h12).1) (by decide)

end Sys2Proof

/-! ### RESYNC, one window at a time (41_reader.md, R147) -/

namespace Sys2Proof.Machine

section Resync
variable {cm : Bool} {l : List Byte}

/-- Any fuel that covers the list gives the same run: every step takes at least one byte. -/
theorem resyncFuel_congr {m n : Nat} (hm : l.length ≤ m) (hn : l.length ≤ n) :
    resyncFuel cm m l = resyncFuel cm n l := by
  induction m generalizing n l with
  | zero =>
    obtain rfl : l = [] := List.length_eq_zero_iff.1 (Nat.le_zero.1 hm)
    cases n <;> rfl
  | succ m ih =>
    cases n with
    | zero =>
      obtain rfl : l = [] := List.length_eq_zero_iff.1 (Nat.le_zero.1 hn)
      rfl
    | succ n =>
      have hdrop (k : Nat) (hk : 0 < k) : resyncFuel cm m (l.drop k) = resyncFuel cm n (l.drop k) :=
        ih (by simp; omega) (by simp; omega)
      simp only [resyncFuel, hdrop Config.frameLen (by decide), hdrop 1 (by decide)]

theorem resync_of_length_lt (h : l.length < 9) : resync cm l = ([], l) := by
  cases hn : l.length with
  | zero => rw [List.length_eq_zero_iff.1 hn]; rfl
  | succ n => rw [resync, hn, resyncFuel, if_pos h]

/-- The loop's body consumes `k ≥ 1` bytes and goes on with the rest. -/
theorem resyncFuel_drop {n k : Nat} (hn : l.length = n + 1) (hk : 0 < k) :
    resyncFuel cm n (l.drop k) = resync cm (l.drop k) :=
  resyncFuel_congr (by simp; omega) le_rfl

theorem resync_of_decodeFrame_ok {f : Frame} (hd : decodeFrame cm (l.take 9) = .ok f) :
    resync cm l = (f :: (resync cm (l.drop 9)).1, (resync cm (l.drop 9)).2) := by
  have hlen : 9 ≤ l.length := by simpa using decodeFrame_ok_length hd
  obtain ⟨n, hn⟩ := Nat.exists_eq_add_of_le' (Nat.one_le_of_lt hlen)
  rw [resync, hn, resyncFuel, if_neg (by simpa using hlen), hd, ← resyncFuel_drop hn (by decide)]

theorem resync_of_decodeFrame_err {e : DecodeError} (hlen : 9 ≤ l.length) (hd : decodeFrame cm (l.take 9) = .err e) :
    resync cm l = resync cm (l.drop 1) := by
  obtain ⟨n, hn⟩ := Nat.exists_eq_add_of_le' (Nat.one_le_of_lt hlen)
  rw [resync, hn, resyncFuel, if_neg (by simpa using hlen), hd, ← resyncFuel_drop hn (by decide)]

end Resync

/-! #### Constant lines (R129) -/

/-- The window of a constant line that is long enough. -/
theorem take_replicate_nine (b : Byte) {n : Nat} (h : 9 ≤ n) : (List.replicate n b).take 9 = List.replicate 9 b := by
  rw [List.take_replicate, Nat.min_eq_left h]

/-- A valid constant window is a frame, and what follows it is a shorter constant line. -/
theorem resync_constant (b : Byte) (n : Nat) :
    resync false (List.replicate (9 * n) b) = (List.replicate n (Frame.constant b), []) := by
  induction n with
  | zero => rfl
  | succ n ih =>
    have hwindow : decodeFrame false ((List.replicate (9 * (n + 1)) b).take 9) = .ok (Frame.constant b) := by
      rw [take_replicate_nine b (by omega), decodeFrame_constant]
    have hdrop : (List.replicate (9 * (n + 1)) b).drop 9 = List.replicate (9 * n) b := by
      rw [List.drop_replicate, Nat.mul_succ, Nat.add_sub_cancel]
    rw [resync_of_decodeFrame_ok hwindow, hdrop, ih, List.replicate_succ]

/-- With the magic checked, a constant line loses one byte at a time until it is too short for a window. -/
theorem resync_constant_checked (b : Byte) (n : Nat) : (resync true (List.replicate n b)).1 = [] := by
  induction n with
  | zero => rfl
  | succ n ih =>
    by_cases hn : n + 1 < 9
    · rw [resync_of_length_lt (by simpa using hn)]
    · have hwindow : decodeFrame true ((List.replicate (n + 1) b).take 9) = .err .badMagic := by
        rw [take_replicate_nine b (not_lt.1 hn), decodeFrame_constant_badMagic]
      rw [resync_of_decodeFrame_err (by simpa using hn) hwindow, List.drop_replicate]
      exact ih

/-- Settles O9: with CHECK_MAGIC = 0 a constant window is the constant frame, with 1 it is BadMagic. -/
theorem constantLineMakesFramesOnlyWithoutMagicCheck : Obligations.ConstantLineMakesFramesOnlyWithoutMagicCheck :=
  ⟨resync_constant, resync_constant_checked, decodeFrame_constant_badMagic⟩

end Sys2Proof.Machine

/-! #### RESYNC over a list that starts with frames or with garbage (R147 to R149, R151) -/

namespace Sys2Proof.Machine

section Resync
variable {cm : Bool}

/-- Settles O48: the loop stops on a short list, and otherwise its window is a frame or costs one byte. -/
theorem resyncUnfoldsAsTheSourceLoop : Obligations.ResyncUnfoldsAsTheSourceLoop := by
  intro cm l
  by_cases hlen : l.length < 9
  · rw [if_pos hlen, resync_of_length_lt hlen]
  · rw [if_neg hlen]
    cases hd : decodeFrame cm (l.take 9) with
    | ok f => exact resync_of_decodeFrame_ok hd
    | err e => exact resync_of_decodeFrame_err (not_lt.1 hlen) hd

/-- A valid frame in front is RESYNC's first frame, whatever follows it. -/
theorem resync_append_of_decodeFrame_ok {w : List Byte} {f : Frame} (hd : decodeFrame cm w = .ok f) (l : List Byte) :
    resync cm (w ++ l) = (f :: (resync cm l).1, (resync cm l).2) := by
  have hlen : w.length = 9 := decodeFrame_ok_length hd
  have hwindow : decodeFrame cm ((w ++ l).take 9) = .ok f := by rwa [List.take_left' hlen]
  rw [resync_of_decodeFrame_ok hwindow, List.drop_left' hlen]

/-- An encoded frame in front is RESYNC's first frame, under either CHECK_MAGIC. -/
theorem resync_encodeFrame_append (c : Byte) (d : Word32) (l : List Byte) :
    resync cm ((encodeFrame c d).toList ++ l) =
      ({ m0 := 0xA5, m1 := 0xAA, m2 := 0xAA, command := c, data := d, checksum := checksum c d } :: (resync cm l).1,
        (resync cm l).2) :=
  resync_append_of_decodeFrame_ok (decodeFrame_encodeFrame cm c d) l

/-- RESYNC of one encoded frame: that frame and nothing left. -/
theorem resync_encodeFrame (c : Byte) (d : Word32) :
    resync cm (encodeFrame c d).toList =
      ([{ m0 := 0xA5, m1 := 0xAA, m2 := 0xAA, command := c, data := d, checksum := checksum c d }], []) := by
  simpa [resync_of_length_lt] using resync_encodeFrame_append (cm := cm) c d []

/-- Garbage in front of nine bytes or more, no window of which decodes, is dropped byte by byte. -/
theorem resync_garbage_append {g w : List Byte} (hw : 9 ≤ w.length)
    (hg : ∀ i < g.length, ∀ f, decodeFrame cm (((g ++ w).drop i).take 9) ≠ .ok f) :
    resync cm (g ++ w) = resync cm w := by
  induction g with
  | nil => rfl
  | cons b g ih =>
    have hrest : resync cm (g ++ w) = resync cm w := ih fun i hi => hg (i + 1) (Nat.succ_lt_succ hi)
    cases hd : decodeFrame cm ((b :: g ++ w).take 9) with
    | ok f => exact absurd hd (hg 0 (Nat.succ_pos _) f)
    | err e => rw [resync_of_decodeFrame_err (by simp; omega) hd, ← hrest]; rfl

end Resync

/-- Settles O51: the garbage left is dropped byte by byte, and the encoded frame follows. -/
theorem garbagePrefixIsSkippedByteByByte : Obligations.GarbagePrefixIsSkippedByteByByte := by
  intro cm c d g hg i hi
  have hdrop : (g ++ (encodeFrame c d).toList).drop i = g.drop i ++ (encodeFrame c d).toList :=
    List.drop_append_of_le_length hi
  have hrest : ∀ j < (g.drop i).length, ∀ f,
      decodeFrame cm (((g.drop i ++ (encodeFrame c d).toList).drop j).take 9) ≠ .ok f := fun j hj => by
    rw [← hdrop, List.drop_drop]
    exact hg (i + j) (by rw [List.length_drop] at hj; omega)
  rw [hdrop, resync_garbage_append (by simp) hrest, resync_encodeFrame]

/-- Settles O52: the first frame is taken, the garbage is dropped byte by byte, and the second frame follows. -/
theorem twoFramesSurviveGarbageBetweenThem : Obligations.TwoFramesSurviveGarbageBetweenThem := by
  intro cm c1 c2 d1 d2 g hg
  have hdrop (i : Nat) : ((encodeFrame c1 d1).toList ++ g ++ (encodeFrame c2 d2).toList).drop (9 + i) =
      (g ++ (encodeFrame c2 d2).toList).drop i := by
    rw [List.append_assoc, ← List.drop_drop, List.drop_left' (by simp)]
  simp only [hdrop] at hg
  rw [List.append_assoc, resync_encodeFrame_append, resync_garbage_append (by simp) hg, resync_encodeFrame]

/-- Settles O53: the streams are literals, on which RESYNC is evaluated under either CHECK_MAGIC. -/
theorem garbageCanMakeSpuriousFrames : Obligations.GarbageCanMakeSpuriousFrames :=
  ⟨by decide, by decide, by decide⟩

/-! ### The reader in one cycle (41_reader.md section 1) -/

section Cycle
variable (s : State)

/-- The scan step of a window that does not decode (R143). -/
theorem readerScan_of_decodeFrame_err {e : DecodeError} (ho : s.opened = true) (hl : 9 ≤ s.rxbuf.length)
    (hd : decodeFrame s.params.checkMagic (s.rxbuf.take 9) = .err e) : readerScan s = scanDrop s := by
  simp [readerScan, window, ho, hl, hd]

/-- The scan step of a closed block (R140). -/
theorem readerScan_of_closed (ho : s.opened = false) : readerScan s = scanNothing s := by
  simp [readerScan, ho]

/-- With room in `respq` a full window costs the buffer a byte at least: only a hold keeps it (R143, R144). -/
theorem readerScan_length_lt_of_room (ho : s.opened = true) (hr : hasRoom s.params.respqDepth s.respq.length = true)
    (hl : 9 ≤ s.rxbuf.length) : (readerScan s).rxbuf.length < s.rxbuf.length := by
  have row := readerScan_row s
  generalize readerScan s = sc at row ⊢
  cases row with
  | closed hc => simp [ho] at hc
  | short _ hs => omega
  | publish | drop => simp only [List.length_drop]; omega
  | hold _ _ _ _ hh => simp [hr] at hh

end Cycle

/-- A row that clears finds the transport open: CLOSE while closed clears nothing (R175). -/
theorem CtlRow.opened_of_clear {s : State} {inp : Inputs} {c : Ctl} (row : CtlRow s inp c) (hclear : c.clear = true) :
    s.opened = true := by
  cases row with
  | closeOpen _ _ _ ho => exact ho
  | idle | transact | transactClosed | pollClosed | pollFrame | pollEmpty | openClosed | openIllegal | closeClosed | hsStall
  | hsLast | hsNext | txStall | txLast | txNext | waitFrame | waitTimeout | waitTick | waitNothing | respTaken
  | respHeld => cases hclear

/-- A cycle that starts closed clears nothing. -/
theorem ctl_clear_of_closed (s : State) (inp : Inputs) (ho : s.opened = false) : (ctl s inp).clear = false :=
  Bool.eq_false_iff.2 fun hclear => by simp [(ctl_row s inp).opened_of_clear hclear] at ho

/-- Settles O29: FRAME's cycle is the plain one but for its scan step, which publishes, holds or does nothing. -/
theorem frameMetIsPublishedOrHeld : Obligations.FrameMetIsPublishedOrHeld := by
  intro s f c appended q
  refine ⟨_, rfl, rfl, fun (hclear : (ctl s (inputOf s)).clear = true) => ?_,
    fun (hclear : (ctl s (inputOf s)).clear = false) ho hr => ?_,
    fun (hclear : (ctl s (inputOf s)).clear = false) ho hr => ?_, fun ho => ?_⟩
  · simp [hclear]
  · simp [hclear, ho, hr, scanFrame, appended, q, c]
  · simp [hclear, ho, hr, scanFrame, scanNothing, appended, q, c]
  · simp [ctl_clear_of_closed s _ ho, rxAppend_closed s _ ho, ho, scanNothing, q, c]

/-- Settles O30: the scan step drops one byte and publishes nothing, and the cycle does not clear. -/
theorem invalidWindowDropsOneByte : Obligations.InvalidWindowDropsOneByte := by
  intro s e hrun ho hl hd hclear
  have hscan : readerScan s = scanDrop s := readerScan_of_decodeFrame_err s ho hl hd
  refine ⟨clockCycle s, step_of_running s hrun, ?_, ?_, ?_⟩
  · simp [clockCycle, hclear, hscan, scanDrop, rxAppend_eq_appendedByte s hrun.1]
  · simp [clockCycle, hclear, hscan, scanDrop]
  · simp [publishedFrame, hscan, scanDrop]

/-- Settles O31: a closed block is ready, scans nothing and appends nothing, and its two queues were empty. -/
theorem closedBlockDiscardsReceivedBytes : Obligations.ClosedBlockDiscardsReceivedBytes := by
  intro s hrun ho hinv
  obtain ⟨hrx, hq, -⟩ := hinv ho
  have hready : rxReady s = true := rxReady_of_closed s ho
  refine ⟨by simp [hready], ?_, clockCycle s, step_of_running s hrun, ?_, ?_⟩
  · cases hv : (inputOf s).rxValid <;> simp [receivedByte, rxOffer, hrun.1, hready, hv]
  · simp [clockCycle, readerScan_of_closed s ho, scanNothing, rxAppend_closed s _ ho, hrx]
  · simp [clockCycle, readerScan_of_closed s ho, scanNothing, hq]

/-! ### The reader over a run (41_reader.md section 2) -/

/-- No step writes the parameters (R36). -/
theorem step_params {s t : State} (h : step s = .next t) : t.params = s.params := by
  obtain ⟨-, rfl⟩ | ⟨-, rfl⟩ := step_cases h <;> rfl

/-- Room throughout is room now, when there is a cycle to come. -/
theorem RoomThroughout.room {n : Nat} {s : State} (h : RoomThroughout (n + 1) s) :
    hasRoom s.params.respqDepth s.respq.length = true :=
  h 0 n.succ_pos s rfl

/-- Room throughout one more cycle is room throughout the rest of the run. -/
theorem RoomThroughout.of_step {n : Nat} {s t : State} (h : RoomThroughout (n + 1) s) (hs : step s = .next t) :
    RoomThroughout n t :=
  fun k hk u hu => h (k + 1) (Nat.succ_lt_succ hk) u ((run_succ_of_step hs).trans hu)

/-! #### Agreement with RESYNC (R147) -/

/-- One scan step is one turn of the source's loop, or none: bytes that arrive later do not change the window it reads. -/
theorem ScanRow.resync_append {s : State} {sc : Scan} (row : ScanRow s sc) (more : List Byte) :
    resync s.params.checkMagic (s.rxbuf ++ more) =
      (sc.publish.toList ++ (resync s.params.checkMagic (sc.rxbuf ++ more)).1,
        (resync s.params.checkMagic (sc.rxbuf ++ more)).2) := by
  cases row with
  | closed | short | hold => rfl
  | publish _ hl f hd =>
    have hwindow : (s.rxbuf ++ more).take 9 = s.rxbuf.take 9 := List.take_append_of_le_length hl
    rw [resync_of_decodeFrame_ok (hwindow ▸ hd), List.drop_append_of_le_length hl]
    rfl
  | drop _ hl e hd =>
    have hwindow : (s.rxbuf ++ more).take 9 = s.rxbuf.take 9 := List.take_append_of_le_length hl
    rw [resync_of_decodeFrame_err (by simp; omega) (hwindow ▸ hd), List.drop_append_of_le_length (by omega)]
    rfl

/-- What the buffer holds after a cycle that ends open: what the scan step left, then the byte appended. -/
theorem step_rxbuf_of_opened {s t : State} (h : step s = .next t) (ho : t.opened = true) :
    t.rxbuf = (readerScan s).rxbuf ++ appendedByte s := by
  obtain ⟨-, rfl⟩ | ⟨⟨hrst, -⟩, rfl⟩ := step_cases h
  · cases ho
  · have hclear : (ctl s (inputOf s)).clear = false := (ctl_row s (inputOf s)).clear_of_opened ho
    simp [clockCycle, hclear, rxAppend_eq_appendedByte s hrst]

/-- What a cycle that ends open publishes is what its scan step publishes. -/
theorem publishedFrame_of_opened {s t : State} (h : step s = .next t) (ho : t.opened = true) :
    publishedFrame s = (readerScan s).publish.toList := by
  obtain ⟨-, rfl⟩ | ⟨⟨hrst, -⟩, -⟩ := step_cases h
  · cases ho
  · simp [publishedFrame, hrst]

/-- One cycle that ends open publishes what RESYNC gives and leaves the rest of its work in the buffer. -/
theorem resync_of_step {s t : State} (h : step s = .next t) (ho : t.opened = true) (more : List Byte) :
    resync s.params.checkMagic (s.rxbuf ++ (appendedByte s ++ more)) =
      (publishedFrame s ++ (resync s.params.checkMagic (t.rxbuf ++ more)).1,
        (resync s.params.checkMagic (t.rxbuf ++ more)).2) := by
  rw [(readerScan_row s).resync_append, publishedFrame_of_opened h ho, step_rxbuf_of_opened h ho, List.append_assoc]

/-- Settles O49, by induction on the cycles: each one is a turn of the source's loop or none. -/
theorem readerRunAgreesWithResync : Obligations.ReaderRunAgreesWithResync := by
  intro n
  induction n with
  | zero =>
    intro s t _ hrun
    cases hrun
    simp [appendedDuring, publishedDuring, observed]
  | succ n ih =>
    intro s t hopen hrun
    obtain ⟨u, hstep, hrest⟩ := step_of_run_succ hrun
    have hopenu : OpenThroughout n u := hopen.of_step hstep
    have hrestu := ih u t hopenu hrest
    rw [step_params hstep] at hrestu
    rw [appendedDuring, publishedDuring, observed_succ_of_step _ n hstep, observed_succ_of_step _ n hstep,
      resync_of_step hstep hopenu.opened, ← appendedDuring, ← publishedDuring, hrestu, List.append_assoc]

/-- Open, with room and no byte arriving, every cycle with a full window shortens the buffer until no window is left. -/
theorem rxbuf_length_lt_of_drained (n : Nat) {s t : State} (hopen : OpenThroughout n s) (hroom : RoomThroughout n s)
    (hlen : s.rxbuf.length < n + 9) (hnone : appendedDuring n s = []) (hrun : Host.Core.run core n s = .next t) :
    t.rxbuf.length < 9 := by
  induction n generalizing s with
  | zero =>
    cases hrun
    simpa using hlen
  | succ n ih =>
    obtain ⟨u, hstep, hrest⟩ := step_of_run_succ hrun
    have hopenu : OpenThroughout n u := hopen.of_step hstep
    rw [appendedDuring, observed_succ_of_step _ n hstep] at hnone
    obtain ⟨hnow, hlater⟩ := List.append_eq_nil_iff.1 hnone
    have hrx : u.rxbuf = (readerScan s).rxbuf := by
      rw [step_rxbuf_of_opened hstep hopenu.opened, hnow, List.append_nil]
    have hle : (readerScan s).rxbuf.length ≤ s.rxbuf.length := readerScan_length_le s
    have hlt : 9 ≤ s.rxbuf.length → (readerScan s).rxbuf.length < s.rxbuf.length :=
      readerScan_length_lt_of_room s hopen.opened hroom.room
    exact ih hopenu (hroom.of_step hstep) (by rw [hrx]; omega) hlater hrest

/-- Settles O50: no window is left in the drained buffer, so RESYNC has nothing more to do there. -/
theorem drainedReaderHasFinishedResync : Obligations.DrainedReaderHasFinishedResync := by
  intro n s t hopen hroom hlen hnone hrun
  have hshort : t.rxbuf.length < 9 := rxbuf_length_lt_of_drained n hopen hroom (by omega) hnone hrun
  have hagree := readerRunAgreesWithResync n s t hopen hrun
  rw [hnone, List.append_nil, resync_of_length_lt hshort, List.append_nil] at hagree
  rw [hagree]
  exact ⟨rfl, rfl, hshort⟩

/-! #### The buffer's bound (R150) -/

/-- The buffer after a cycle holds no more than what the scan step left and the byte appended. -/
theorem clockCycle_rxbuf_length_le (s : State) :
    (clockCycle s).rxbuf.length ≤ (readerScan s).rxbuf.length + (rxAppend s (rxOffer (inputOf s))).length := by
  cases hclear : (ctl s (inputOf s)).clear <;> simp [clockCycle, hclear]

/-- A cycle with room in `respq` does not lengthen a buffer that holds a full window: the scan step takes a byte at least for the
one that arrives, and a closed block takes neither. -/
theorem step_rxbuf_length_le_of_room {s t : State} (h : step s = .next t)
    (hr : hasRoom s.params.respqDepth s.respq.length = true) (hl : 9 ≤ s.rxbuf.length) :
    t.rxbuf.length ≤ s.rxbuf.length := by
  obtain ⟨-, rfl⟩ | ⟨-, rfl⟩ := step_cases h
  · simp
  · have happend := rxAppend_length_le s (rxOffer (inputOf s))
    have hcycle := clockCycle_rxbuf_length_le s
    cases ho : s.opened with
    | false =>
      have hscan := readerScan_length_le s
      rw [rxAppend_closed s _ ho, List.length_nil] at hcycle
      omega
    | true =>
      have hscan := readerScan_length_lt_of_room s ho hr hl
      omega

/-- No cycle lengthens the buffer by more than the one byte RX brings. -/
theorem step_rxbuf_length_le_succ {s t : State} (h : step s = .next t) : t.rxbuf.length ≤ s.rxbuf.length + 1 := by
  obtain ⟨-, rfl⟩ | ⟨-, rfl⟩ := step_cases h
  · simp
  · have hscan := readerScan_length_le s
    have happend := rxAppend_length_le s (rxOffer (inputOf s))
    have hcycle := clockCycle_rxbuf_length_le s
    omega

/-- Over a run with room in `respq` a buffer of at most nine bytes stays one. -/
theorem rxbuf_length_le_nine (n : Nat) {s t : State} (hlen : s.rxbuf.length ≤ 9) (hroom : RoomThroughout n s)
    (hrun : Host.Core.run core n s = .next t) : t.rxbuf.length ≤ 9 := by
  induction n generalizing s with
  | zero =>
    cases hrun
    exact hlen
  | succ n ih =>
    obtain ⟨u, hstep, hrest⟩ := step_of_run_succ hrun
    have hsucc := step_rxbuf_length_le_succ hstep
    have hfull := step_rxbuf_length_le_of_room hstep hroom.room
    exact ih (by omega) (hroom.of_step hstep) hrest

/-- Settles O54: the bound over a run, its two steps, and `rx_ready` as room in `rxbuf`. -/
theorem readerBuffersAtMostNineBytes : Obligations.ReaderBuffersAtMostNineBytes := by
  refine ⟨fun n _ _ => rxbuf_length_le_nine n, fun s t _ _ hr hstep => ?_, fun s hlen hdepth => ?_,
    fun s ho hdepth hlen => ?_⟩
  · exact ⟨step_rxbuf_length_le_of_room hstep hr, fun _ => step_rxbuf_length_le_succ hstep⟩
  · exact (rxReady_iff s).2 (.inr fun d hd => Nat.lt_of_le_of_lt hlen (hdepth d hd))
  · simp [rxReady, ho, hdepth, hlen]

end Sys2Proof.Machine

/-! ### One cycle of the transactor, forward (42_transactor.md sections 1 to 3) -/

namespace Sys2Proof.Machine

/-- The clock cycle of `s` in which the transactor does `c`. -/
def cycleWith (s : State) (c : Ctl) : State := edge s (rxOffer (inputOf s)) (readerScan s) c

theorem clockCycle_eq_cycleWith (s : State) : clockCycle s = cycleWith s (ctl s (inputOf s)) := rfl

theorem quietCycle_eq_cycleWith (s : State) : quietCycle s = cycleWith s (ctlKeep s) := rfl

section Quiet
variable (s : State)

@[simp] theorem quietCycle_opened : (quietCycle s).opened = s.opened := rfl
@[simp] theorem quietCycle_phase : (quietCycle s).phase = s.phase := rfl
@[simp] theorem quietCycle_txbuf : (quietCycle s).txbuf = s.txbuf := rfl
@[simp] theorem quietCycle_txidx : (quietCycle s).txidx = s.txidx := rfl
@[simp] theorem quietCycle_timer : (quietCycle s).timer = s.timer := rfl
@[simp] theorem quietCycle_params : (quietCycle s).params = s.params := rfl

@[simp] theorem quietCycle_respq : (quietCycle s).respq = s.respq ++ (readerScan s).publish.toList := by
  simp [quietCycle]

/-- A closed block's quiet cycle only moves the environment on: the reader is inactive and the byte on RX is discarded (R140,
R145). -/
theorem quietCycle_of_closed (ho : s.opened = false) :
    quietCycle s = { s with env := s.env.tail, cycle := s.cycle + 1 } := by
  simp [quietCycle, edge_eq, readerScan_of_closed s ho, scanNothing, rxAppend_closed s _ ho]

/-- Taking the oldest frame as the response, as POLL and WAIT do (R173, R178). -/
theorem cycleWith_finish_frame_pop {f : Frame} {q : List Frame} (timer : Nat) (hq : s.respq = f :: q) :
    cycleWith s (finish .frame f { ctlKeep s with pop := true, timer := timer }) =
      { quietCycle s with rspStatus := .frame, rspFrame := f, phase := .resp, timer := timer,
                          respq := q ++ (readerScan s).publish.toList } := by
  simp [cycleWith, quietCycle, edge_eq, hq]

end Quiet

/-! #### Operations on the request port (R170 to R175) -/

/-- The cycle in which the operation `i` is offered: its effect if it is accepted, the transactor's phase step otherwise. -/
theorem exec_of_request (s : State) {i : Instr} (hi : i.format = .request) :
    exec i s = .next (cycleWith s (offered s (inputOf s) (acceptOp s (inputOf s) i))) := by
  cases i with
  | transact | poll | openPort | closePort => rfl
  | frame | handshake | cmdOk | cmdGetState | cmdError => cases hi

/-- In IDLE an operation offered is accepted. -/
theorem exec_of_request_of_idle (s : State) {i : Instr} (hi : i.format = .request) (hp : s.phase = .idle) :
    exec i s = .next (cycleWith s (acceptOp s (inputOf s) i)) := by
  simp [exec_of_request s hi, offered, reqReady, hp]

/-- In any other phase it is not, and the cycle is the plain one. -/
theorem exec_of_request_of_busy (s : State) {i : Instr} (hi : i.format = .request) (hp : s.phase ≠ .idle) :
    exec i s = .next (clockCycle s) := by
  simp [exec_of_request s hi, offered, reqReady, hp, clockCycle_eq_cycleWith, ctl_of_busy s _ hp]

/-- Settles O23: the acceptance writes the encoded frame and starts TX, or completes with NOT_OPEN. -/
theorem transactAccepted : Obligations.TransactAccepted := by
  intro s c d hp
  rw [exec_of_request_of_idle s rfl hp, acceptOp]
  refine ⟨fun ho => ?_, fun ho => ?_⟩
  · simp only [ctlTransact, ho, if_true]
    rfl
  · simp only [ctlTransact, ho, Bool.false_eq_true, if_false]
    rfl

/-- Settles O24: operation field 1 is POLL, and its acceptance completes at once from the queue as it stood. -/
theorem pollAccepted : Obligations.PollAccepted := by
  refine ⟨fun w => decodeRequest_eq_poll, fun s hp => ?_⟩
  rw [exec_of_request_of_idle s rfl hp, acceptOp]
  refine ⟨fun ho => ?_, fun f q ho hq => ?_, fun ho hq => ?_⟩
  · simp only [ctlPoll, ho, Bool.false_eq_true, if_false]
    rfl
  · simp only [ctlPoll, ho, hq, if_true]
    exact congrArg _ (cycleWith_finish_frame_pop s s.timer hq)
  · simp only [ctlPoll, ho, hq, if_true]
    rfl

/-- Settles O25: a closed block's reader does nothing in the cycle that opens it; an open one completes with ILLEGAL. -/
theorem openAccepted : Obligations.OpenAccepted := by
  intro s hp
  rw [exec_of_request_of_idle s rfl hp, acceptOp]
  refine ⟨fun ho => ?_, fun ho => ?_⟩
  · have hopen : cycleWith s (ctlOpen s) = { quietCycle s with opened := true, txidx := 0, phase := .hs } := by
      simp only [ctlOpen, ho, Bool.false_eq_true, if_false]
      rfl
    rw [hopen, quietCycle_of_closed s ho]
  · simp only [ctlOpen, ho, if_true]
    rfl

/-- Settles O26: `clear` overrides the publish and the append; a closed block has neither. -/
theorem closeAccepted : Obligations.CloseAccepted := by
  intro s hp
  rw [exec_of_request_of_idle s rfl hp, acceptOp]
  refine ⟨fun ho => ?_, fun ho => ?_⟩
  · simp [ctlClose, ho, cycleWith, edge_eq]
  · have hclose : cycleWith s (ctlClose s) =
        { quietCycle s with rspStatus := .done, rspFrame := Frame.zero, phase := .resp } := by
      simp only [ctlClose, ho, Bool.false_eq_true, if_false]
      rfl
    rw [hclose, quietCycle_of_closed s ho]

/-- Settles O27: outside IDLE both cycles make the transactor's phase step, which does not read `req_valid`. -/
theorem operationOfferedWhileBusyHasNoEffect : Obligations.OperationOfferedWhileBusyHasNoEffect := by
  rintro s i _ hi hp hw rfl hrst
  let s' : State := { s with env := { inputOf s with reqValid := false } :: s.env.tail }
  have hphase : ctlPhase s' (inputOf s') = ctlPhase s (inputOf s) := rfl
  calc exec i s
    _ = .next (cycleWith s (ctlPhase s (inputOf s))) := by
      rw [exec_of_request_of_busy s hi hp, clockCycle_eq_cycleWith, ctl_of_busy s _ hp]
    _ = .next (cycleWith s' (ctlPhase s' (inputOf s'))) := by
      rw [hphase]
      rfl
    _ = step s' := by
      rw [step_of_running s' ⟨hrst, hw⟩, clockCycle_eq_cycleWith, ctl_of_busy s' _ hp]

/-- An accepted operation completes at once, or begins a transmission with its first byte (R172 to R175). -/
theorem CtlRow.resp_or_transmits_of_accepted {s : State} {inp : Inputs} {c : Ctl} (row : CtlRow s inp c)
    (hp : s.phase = .idle) (hr : inp.reqValid = true) :
    c.phase = .resp ∨ ((c.phase = .hs ∨ c.phase = .tx) ∧ c.txidx = 0) := by
  cases row with
  | transactClosed | pollClosed | pollFrame | pollEmpty | openIllegal | closeOpen | closeClosed => exact .inl rfl
  | transact => exact .inr ⟨.inr rfl, rfl⟩
  | openClosed => exact .inr ⟨.inl rfl, rfl⟩
  | idle _ hr' => simp [hr] at hr'
  | hsStall hp' | hsLast hp' | hsNext hp' | txStall hp' | txLast hp' | txNext hp' | waitFrame hp' | waitTimeout hp'
  | waitTick hp' | waitNothing hp' | respTaken hp' | respHeld hp' => simp [hp] at hp'

/-- The only way back to IDLE is a response taken by the host (R171, R181). -/
theorem CtlRow.response_taken_of_idle {s : State} {inp : Inputs} {c : Ctl} (row : CtlRow s inp c)
    (hp : s.phase ≠ .idle) (hc : c.phase = .idle) : s.phase = .resp ∧ inp.rspReady = true := by
  cases row with
  | respTaken hp' hr => exact ⟨hp', hr⟩
  | idle hp' => exact absurd hp' hp
  | hsStall | hsNext | txStall | txNext | waitTick | waitNothing | respHeld => exact absurd hc hp
  | transact | transactClosed | pollClosed | pollFrame | pollEmpty | openClosed | openIllegal | closeOpen | closeClosed
  | hsLast | txLast | waitFrame | waitTimeout => cases hc

/-- Settles O28: the phase after a cycle is that of a row of R222. -/
theorem oneOperationInFlight : Obligations.OneOperationInFlight := by
  intro s t hstep hrst
  obtain ⟨hrst', -⟩ | ⟨-, rfl⟩ := step_cases hstep
  · simp [hrst] at hrst'
  · have row := ctl_row s (inputOf s)
    refine ⟨fun hfire => ?_, row.response_taken_of_idle, by simp [reqReady_iff]⟩
    have ⟨hr, hp⟩ : (inputOf s).reqValid = true ∧ s.phase = .idle := by simpa [reqFire, reqReady_iff] using hfire
    refine ⟨hp, fun hidle : (ctl s (inputOf s)).phase = .idle => ?_⟩
    obtain hc | ⟨hc | hc, -⟩ := row.resp_or_transmits_of_accepted hp hr <;> simp [hidle] at hc

/-! #### The phase steps (R176 to R182), each as the cycle it makes -/

section Cycle
variable {s : State}

/-- A cycle in which the transactor does nothing. -/
theorem clockCycle_of_ctlKeep (h : ctl s (inputOf s) = ctlKeep s) : clockCycle s = quietCycle s := by
  rw [clockCycle_eq_cycleWith, h, quietCycle_eq_cycleWith]

/-- The cycle of a phase other than IDLE. -/
theorem clockCycle_of_busy (hp : s.phase ≠ .idle) : clockCycle s = cycleWith s (ctlPhase s (inputOf s)) := by
  rw [clockCycle_eq_cycleWith, ctl_of_busy s _ hp]

theorem clockCycle_idle (hp : s.phase = .idle) (hr : (inputOf s).reqValid = false) : clockCycle s = quietCycle s :=
  clockCycle_of_ctlKeep (by simp [ctl, reqFire, hr, ctlPhase, hp])

theorem clockCycle_transact {c : Byte} {d : Word32} (hp : s.phase = .idle) (ho : s.opened = true)
    (hr : (inputOf s).reqValid = true) (hi : decodeRequest (requestWord (inputOf s)) = .transact c d) :
    clockCycle s = { quietCycle s with txbuf := encodeFrame c d, txidx := 0, phase := .tx } := by
  rw [clockCycle_eq_cycleWith]
  simp only [ctl, reqFire, hr, (reqReady_iff s).2 hp, Bool.and_self, if_true, hi, acceptOp, ctlTransact, ho]
  rfl

theorem clockCycle_transmit_stall (hp : s.phase = .hs ∨ s.phase = .tx) (hr : (inputOf s).txReady = false) :
    clockCycle s = quietCycle s := by
  refine clockCycle_of_ctlKeep ?_
  obtain hp | hp := hp <;> simp [ctl_of_busy, ctlPhase, hp, ctlHs, ctlTx, txFire, hr]

theorem clockCycle_hs_next (hp : s.phase = .hs) (hr : (inputOf s).txReady = true) (hx : s.txidx ≠ 2) :
    clockCycle s = { quietCycle s with txidx := s.txidx + 1 } := by
  rw [clockCycle_of_busy (by simp [hp])]
  simp only [ctlPhase, hp, ctlHs, txFire, txValid_iff s |>.2 (.inl hp), hr, Bool.and_self, if_true, hx, if_false]
  rfl

theorem clockCycle_hs_last (hp : s.phase = .hs) (hr : (inputOf s).txReady = true) (hx : s.txidx = 2) :
    clockCycle s = { quietCycle s with txidx := 0, rspStatus := .done, rspFrame := Frame.zero, phase := .resp } := by
  rw [clockCycle_of_busy (by simp [hp])]
  simp only [ctlPhase, hp, ctlHs, txFire, txValid_iff s |>.2 (.inl hp), hr, Bool.and_self, if_true, hx]
  rfl

theorem clockCycle_tx_next (hp : s.phase = .tx) (hr : (inputOf s).txReady = true) (hx : s.txidx ≠ 8) :
    clockCycle s = { quietCycle s with txidx := s.txidx + 1 } := by
  rw [clockCycle_of_busy (by simp [hp])]
  simp only [ctlPhase, hp, ctlTx, txFire, txValid_iff s |>.2 (.inr hp), hr, Bool.and_self, if_true, hx, if_false]
  rfl

theorem clockCycle_tx_last (hp : s.phase = .tx) (hr : (inputOf s).txReady = true) (hx : s.txidx = 8) :
    clockCycle s = { quietCycle s with txidx := 0, timer := 0, phase := .wait } := by
  rw [clockCycle_of_busy (by simp [hp])]
  simp only [ctlPhase, hp, ctlTx, txFire, txValid_iff s |>.2 (.inr hp), hr, Bool.and_self, if_true, hx]
  rfl

theorem clockCycle_wait_frame {f : Frame} {q : List Frame} (hp : s.phase = .wait) (hq : s.respq = f :: q) :
    clockCycle s =
      { quietCycle s with rspStatus := .frame, rspFrame := f, phase := .resp, timer := 0,
                          respq := q ++ (readerScan s).publish.toList } := by
  rw [clockCycle_of_busy (by simp [hp]), ← cycleWith_finish_frame_pop s 0 hq]
  simp only [ctlPhase, hp, ctlWait, hq]

theorem clockCycle_wait_timeout (hp : s.phase = .wait) (hq : s.respq = []) (ht : (inputOf s).tick = true)
    (hx : s.timer + 1 = s.params.timeoutTicks) :
    clockCycle s =
      { quietCycle s with timer := 0, rspStatus := .timeout, rspFrame := Frame.zero, phase := .resp } := by
  rw [clockCycle_of_busy (by simp [hp])]
  simp only [ctlPhase, hp, ctlWait, hq, ht, hx, if_true]
  rfl

theorem clockCycle_wait_tick (hp : s.phase = .wait) (hq : s.respq = []) (ht : (inputOf s).tick = true)
    (hx : s.timer + 1 ≠ s.params.timeoutTicks) : clockCycle s = { quietCycle s with timer := s.timer + 1 } := by
  rw [clockCycle_of_busy (by simp [hp])]
  simp only [ctlPhase, hp, ctlWait, hq, ht, hx, if_true, if_false]
  rfl

theorem clockCycle_wait_nothing (hp : s.phase = .wait) (hq : s.respq = []) (ht : (inputOf s).tick = false) :
    clockCycle s = quietCycle s :=
  clockCycle_of_ctlKeep (by simp [ctl_of_busy, ctlPhase, hp, ctlWait, hq, ht])

theorem clockCycle_resp_taken (hp : s.phase = .resp) (hr : (inputOf s).rspReady = true) :
    clockCycle s = { quietCycle s with phase := .idle } := by
  rw [clockCycle_of_busy (by simp [hp])]
  simp only [ctlPhase, hp, ctlResp, rspFire, rspValid_iff s |>.2 hp, hr, Bool.and_self, if_true]
  rfl

theorem clockCycle_resp_held (hp : s.phase = .resp) (hr : (inputOf s).rspReady = false) :
    clockCycle s = quietCycle s :=
  clockCycle_of_ctlKeep (by simp [ctl_of_busy, ctlPhase, hp, ctlResp, rspFire, hr])

end Cycle

/-- Settles O35: the cycle takes the head of the queue before it reads the tick. -/
theorem waitTakesTheOldestFrame : Obligations.WaitTakesTheOldestFrame := by
  intro s f q hrun hp hq
  rw [step_of_running s hrun, clockCycle_wait_frame hp hq]

/-- Settles O38: in both cycles the transactor keeps its state. -/
theorem transactorRestsWithoutEvents : Obligations.TransactorRestsWithoutEvents := by
  refine ⟨fun s hrun hp hq ht => ?_, fun s hrun hp hr => ?_⟩
  · rw [step_of_running s hrun, clockCycle_wait_nothing hp hq ht]
  · rw [step_of_running s hrun, clockCycle_idle hp hr]

/-- Settles O39: the port shows the registers, and only the host's `rsp_ready` ends RESP. -/
theorem responseIsHeldUntilTaken : Obligations.ResponseIsHeldUntilTaken := by
  intro s hrun hp
  refine ⟨by simp [rspValid_iff, hp], rfl, rfl, rfl, rfl, rfl, fun hr => ?_, fun hr => ?_⟩
  · rw [step_of_running s hrun, clockCycle_resp_taken hp hr]
  · rw [step_of_running s hrun, clockCycle_resp_held hp hr]

end Sys2Proof.Machine

/-! ### Runs over listed inputs without reset -/

namespace Sys2Proof.Machine

/-- The environment lists `l` for the coming cycles of a block that has been reset, and no reset among them. -/
structure Listed (s : State) (l rest : List Inputs) : Prop where
  wasReset : s.wasReset = true
  env : s.env = l ++ rest
  rst : ∀ i ∈ l, i.rst = false

/-- The cycles with the inputs `l` lead from `s` to `t` and send `sent` on TX; then the environment lists `rest`. -/
structure RunsTo (s : State) (l rest : List Inputs) (sent : List Byte) (t : State) : Prop where
  run : Host.Core.run core l.length s = .next t
  sent : sentDuring l.length s = sent
  wasReset : t.wasReset = true
  env : t.env = rest
  params : t.params = s.params

/-- A run can go on by one cycle at its end. -/
theorem run_concat {n : Nat} {s t u : State} (hrun : Host.Core.run core n s = .next t) (hstep : step t = .next u) :
    Host.Core.run core (n + 1) s = .next u := by
  induction n generalizing s with
  | zero =>
    cases hrun
    exact run_succ_of_step hstep
  | succ n ih =>
    obtain ⟨v, hv, hrest⟩ := step_of_run_succ hrun
    exact (run_succ_of_step hv).trans (ih hrest)

/-- What a run's last cycle shows comes after what the cycles before it show. -/
theorem observed_concat {α : Type} (observe : State → List α) {n : Nat} {s t : State}
    (hrun : Host.Core.run core n s = .next t) : observed observe (n + 1) s = observed observe n s ++ observe t := by
  induction n generalizing s with
  | zero =>
    cases hrun
    cases hs : step t <;> simp [observed, hs]
  | succ n ih =>
    obtain ⟨v, hv, hrest⟩ := step_of_run_succ hrun
    rw [observed_succ_of_step _ (n + 1) hv, observed_succ_of_step _ n hv, ih hrest, List.append_assoc]

section Listed
variable {s t : State} {l rest : List Inputs} {i : Inputs} {sent : List Byte}

theorem Listed.running (h : Listed s (i :: l) rest) : Running s ∧ inputOf s = i := by
  have hi : inputOf s = i := inputOf_of_env s i _ h.env
  exact ⟨⟨hi ▸ h.rst i List.mem_cons_self, h.wasReset⟩, hi⟩

theorem Listed.tail (h : Listed s (i :: l) rest) : Listed (clockCycle s) l rest :=
  ⟨h.wasReset, congrArg List.tail h.env, fun j hj => h.rst j (List.mem_cons_of_mem _ hj)⟩

theorem Listed.append_left {l' : List Inputs} (h : Listed s (l ++ l') rest) : Listed s l (l' ++ rest) :=
  ⟨h.wasReset, h.env.trans (List.append_assoc ..), fun j hj => h.rst j (List.mem_append_left _ hj)⟩

theorem Listed.runsTo_nil (h : Listed s [] rest) : RunsTo s [] rest [] s := ⟨rfl, rfl, h.wasReset, h.env, rfl⟩

theorem RunsTo.running (h : RunsTo s l (i :: rest) sent t) (hrst : i.rst = false) : Running t ∧ inputOf t = i := by
  have hi : inputOf t = i := inputOf_of_env t i _ h.env
  exact ⟨⟨hi ▸ hrst, h.wasReset⟩, hi⟩

/-- A run over one more listed input, at its end. -/
theorem RunsTo.concat (h : RunsTo s l (i :: rest) sent t) (hrst : i.rst = false) :
    RunsTo s (l ++ [i]) rest (sent ++ sentByte t) (clockCycle t) := by
  have hstep : step t = .next (clockCycle t) := step_of_running t (h.running hrst).1
  refine ⟨?_, ?_, h.wasReset, congrArg List.tail h.env, h.params⟩
  · rw [List.length_append]
    exact run_concat h.run hstep
  · rw [List.length_append, ← h.sent]
    exact observed_concat sentByte h.run

/-- A run over one more listed input, at its beginning. -/
theorem RunsTo.cons (hs : Listed s (i :: l) rest) (h : RunsTo (clockCycle s) l rest sent t) :
    RunsTo s (i :: l) rest (sentByte s ++ sent) t := by
  have hstep : step s = .next (clockCycle s) := step_of_running s hs.running.1
  refine ⟨(run_succ_of_step hstep).trans h.run, ?_, h.wasReset, h.env, h.params⟩
  rw [← h.sent]
  exact observed_succ_of_step sentByte l.length hstep

end Listed

/-! #### Transmission: HS and TX (R176, R177) -/

/-- The bytes a transmission sends: the handshake in HS, the captured frame in TX. -/
def message (s : State) : List Byte :=
  if s.phase = .hs then List.replicate Config.hsLen Config.hsByte else s.txbuf.toList

theorem message_of_hs {s : State} (hp : s.phase = .hs) : message s = List.replicate 3 0x1E := by
  simp [message, hp, Config.hsLen]

theorem message_of_tx {s : State} (hp : s.phase = .tx) : message s = s.txbuf.toList := by simp [message, hp]

/-- A transmission has a byte to send and at most nine. -/
theorem message_length (s : State) : 0 < (message s).length ∧ (message s).length ≤ 9 := by
  unfold message
  split <;> simp [Config.hsLen]

theorem message_congr {s t : State} (hp : t.phase = s.phase) (hb : t.txbuf = s.txbuf) : message t = message s := by
  simp [message, hp, hb]

section Transmit
variable {s : State}

/-- The byte on TX is the one of the message at `txidx` (R32). -/
theorem getElem?_message_txidx (hp : s.phase = .hs ∨ s.phase = .tx) (hx : s.txidx.val < (message s).length) :
    (message s)[s.txidx.val]? = some (txByte s) := by
  obtain hp | hp := hp
  · rw [List.getElem?_eq_getElem hx]
    simp [txByte_eq, hp, message]
  · simp [txByte_eq, hp, message]

/-- A ready sink takes the byte of the message at `txidx`. -/
theorem sentByte_of_ready (hrun : Running s) (hp : s.phase = .hs ∨ s.phase = .tx) (hr : (inputOf s).txReady = true)
    (hx : s.txidx.val < (message s).length) : sentByte s = (message s)[s.txidx.val]?.toList := by
  rw [getElem?_message_txidx hp hx]
  simp [sentByte, hrun.1, hr, (txValid_iff s).2 hp]

theorem sentByte_of_stall (hr : (inputOf s).txReady = false) : sentByte s = [] := by simp [sentByte, hr]

theorem sentByte_of_not_transmitting (hp : ¬ (s.phase = .hs ∨ s.phase = .tx)) : sentByte s = [] := by
  have hv : txValid s = false := Bool.eq_false_iff.2 (mt (txValid_iff s).1 hp)
  simp [sentByte, hv]

/-- A ready sink moves the index on while a byte of the message remains after this one. -/
theorem clockCycle_transmit_next (hp : s.phase = .hs ∨ s.phase = .tx) (hr : (inputOf s).txReady = true)
    (hx : s.txidx.val + 1 < (message s).length) : clockCycle s = { quietCycle s with txidx := s.txidx + 1 } := by
  obtain hp | hp := hp
  · refine clockCycle_hs_next hp hr fun h => ?_
    simp [h, message_of_hs hp] at hx
  · refine clockCycle_tx_next hp hr fun h => ?_
    simp [h, message_of_tx hp] at hx

end Transmit

theorem val_txidx_succ {x : Fin 9} (h : x.val < 8) : (x + 1).val = x.val + 1 := Fin.val_add_one_of_lt h

/-- A transmission over any cycles without reset that leave it a byte to send, or in which the sink is never ready: one byte per
ready cycle, in order, the reader adding to the queue and all else kept. -/
theorem transmission_runsTo {s : State} {l rest : List Inputs} (hl : Listed s l rest) (hp : s.phase = .hs ∨ s.phase = .tx)
    (hn : l.countP (·.txReady) = 0 ∨ s.txidx.val + l.countP (·.txReady) < (message s).length) :
    ∃ t, RunsTo s l rest (((message s).drop s.txidx).take (l.countP (·.txReady))) t ∧ t.phase = s.phase ∧
      t.txbuf = s.txbuf ∧ t.txidx.val = s.txidx.val + l.countP (·.txReady) ∧ t.timer = s.timer ∧
      ∃ published, t.respq = s.respq ++ published := by
  induction l using List.reverseRecOn generalizing rest with
  | nil => exact ⟨s, hl.runsTo_nil, rfl, rfl, rfl, rfl, [], (List.append_nil _).symm⟩
  | append_singleton l i ih =>
    simp only [List.countP_append, List.countP_singleton] at hn ⊢
    obtain ⟨t, hrun, htp, htb, htx, htt, published, htq⟩ := ih hl.append_left (by omega)
    have hrst : i.rst = false := hl.rst i (by simp)
    obtain ⟨hrunning, hi⟩ := hrun.running hrst
    have hp' : t.phase = .hs ∨ t.phase = .tx := htp ▸ hp
    have hmsg : message t = message s := message_congr htp htb
    have hnext := hrun.concat hrst
    cases hr : i.txReady with
    | false =>
      rw [sentByte_of_stall (hi ▸ hr), List.append_nil, clockCycle_transmit_stall hp' (hi ▸ hr)] at hnext
      exact ⟨_, hnext, htp, htb, htx, htt, _, by rw [quietCycle_respq, htq, List.append_assoc]⟩
    | true =>
      rw [if_pos hr] at hn
      have hx : t.txidx.val + 1 < (message t).length := by rw [hmsg]; omega
      have ⟨_, hle⟩ := message_length t
      rw [sentByte_of_ready hrunning hp' (hi ▸ hr) (by omega), clockCycle_transmit_next hp' (hi ▸ hr) hx, hmsg, htx,
        ← List.getElem?_drop, ← List.take_add_one] at hnext
      refine ⟨_, hnext, htp, htb, ?_, htt, (published ++ (readerScan t).publish.toList), ?_⟩
      · exact (val_txidx_succ (by omega)).trans (congrArg (· + 1) htx)
      · exact (quietCycle_respq t).trans (by rw [htq, List.append_assoc])

/-- A transmission from its first byte on. -/
theorem transmission_runsTo_of_first {s : State} {l rest : List Inputs} (hl : Listed s l rest)
    (hp : s.phase = .hs ∨ s.phase = .tx) (hx : s.txidx = 0) (hn : l.countP (·.txReady) < (message s).length) :
    ∃ t, RunsTo s l rest ((message s).take (l.countP (·.txReady))) t ∧ t.phase = s.phase ∧ t.txbuf = s.txbuf ∧
      t.txidx.val = l.countP (·.txReady) ∧ t.timer = s.timer ∧ ∃ published, t.respq = s.respq ++ published := by
  simpa [hx] using transmission_runsTo hl hp (.inr (by simpa [hx] using hn))

/-- A transmission up to its last byte: the whole message has been sent after the next cycle. -/
theorem transmission_last_runsTo {s : State} {l rest : List Inputs} {i : Inputs} (hl : Listed s (l ++ [i]) rest)
    (hp : s.phase = .hs ∨ s.phase = .tx) (hx : s.txidx = 0) (hr : i.txReady = true)
    (hn : l.countP (·.txReady) + 1 = (message s).length) :
    ∃ t, RunsTo s (l ++ [i]) rest (message s) (clockCycle t) ∧ t.phase = s.phase ∧ t.txidx.val = l.countP (·.txReady) ∧
      (inputOf t).txReady = true ∧ ∃ published, t.respq = s.respq ++ published := by
  obtain ⟨t, hrun, htp, htb, htx, -, htq⟩ := transmission_runsTo_of_first hl.append_left hp hx (by omega)
  have hrst : i.rst = false := hl.rst i (by simp)
  obtain ⟨hrunning, hi⟩ := hrun.running hrst
  have hmsg : message t = message s := message_congr htp htb
  have hsent := hrun.concat hrst
  rw [sentByte_of_ready hrunning (htp ▸ hp) (hi ▸ hr) (by rw [hmsg]; omega), hmsg, htx, ← List.take_add_one,
    List.take_of_length_le (by omega)] at hsent
  exact ⟨t, hsent, htp, htx, hi ▸ hr, htq⟩

/-- Settles O33: each cycle is one of R176's three, and a run is a transmission of the message `1E 1E 1E`. -/
theorem handshakeSendsExactlyThreeBytes : Obligations.HandshakeSendsExactlyThreeBytes := by
  simp only [Obligations.HandshakeSendsExactlyThreeBytes, ← List.countP_eq_length_filter]
  refine ⟨fun s hp => ?_, fun s l rest hw hp hx henv hrst => ⟨fun hn => ?_, ?_⟩⟩
  · have hexec : exec .handshake s = .next (clockCycle s) := exec_of_metHandshake s _ (by simp [metHandshake, hp])
    refine ⟨by simp [txValid_iff, hp], by simp [txByte_eq, hp], fun hr => ?_, fun j hr hx hj => ?_, fun hr hx => ?_⟩
    · rw [hexec, clockCycle_transmit_stall (.inl hp) hr]
    · obtain rfl : j = s.txidx + 1 := Fin.ext (hj.trans (val_txidx_succ (by omega)).symm)
      rw [hexec, clockCycle_hs_next hp hr fun h => by simp [h] at hx]
    · rw [hexec, clockCycle_hs_last hp hr hx]
  · obtain ⟨t, hrun, htp, -, htx, -, -⟩ :=
      transmission_runsTo_of_first ⟨hw, henv, hrst⟩ (.inl hp) hx (by simpa [message_of_hs hp] using Nat.lt_succ_of_le hn)
    refine ⟨t, hrun.run, htp.trans hp, htx, hrun.sent.trans ?_⟩
    rw [message_of_hs hp, List.take_replicate, Nat.min_eq_left (by omega)]
  · rintro pre last rfl hr hn
    obtain ⟨t, hrun, htp, htx, htr, -⟩ :=
      transmission_last_runsTo ⟨hw, henv, hrst⟩ (.inl hp) hx hr (by simp [message_of_hs hp, hn])
    rw [clockCycle_hs_last (htp.trans hp) htr (Fin.ext (htx.trans hn)), message_of_hs hp] at hrun
    exact ⟨_, hrun.run, rfl, rfl, rfl, rfl, hrun.sent⟩

/-- Settles O34: each cycle is one of R177's three, and a run is a transmission of the nine bytes of `txbuf`. -/
theorem transmissionSendsTheNineBytes : Obligations.TransmissionSendsTheNineBytes := by
  simp only [Obligations.TransmissionSendsTheNineBytes, ← List.countP_eq_length_filter]
  refine ⟨fun s hrun hp => ?_, fun s l rest hw hp hx henv hrst => ⟨fun hn => ?_, ?_⟩⟩
  · rw [step_of_running s hrun]
    refine ⟨by simp [txValid_iff, hp], by simp [txByte_eq, hp], fun hr => ?_, fun j hr hx hj => ?_, fun hr hx => ?_⟩
    · rw [clockCycle_transmit_stall (.inr hp) hr]
    · obtain rfl : j = s.txidx + 1 := Fin.ext (hj.trans (val_txidx_succ hx).symm)
      rw [clockCycle_tx_next hp hr fun h => by simp [h] at hx]
    · rw [clockCycle_tx_last hp hr hx]
  · obtain ⟨t, hrun, htp, -, htx, htt, -⟩ :=
      transmission_runsTo_of_first ⟨hw, henv, hrst⟩ (.inr hp) hx (by simpa [message_of_tx hp] using Nat.lt_succ_of_le hn)
    exact ⟨t, hrun.run, htp.trans hp, htx, htt, hrun.sent.trans (by rw [message_of_tx hp])⟩
  · rintro pre last rfl hr hn
    obtain ⟨t, hrun, htp, htx, htr, -⟩ :=
      transmission_last_runsTo ⟨hw, henv, hrst⟩ (.inr hp) hx hr (by simp [message_of_tx hp, hn])
    rw [clockCycle_tx_last (htp.trans hp) htr (Fin.ext (htx.trans hn)), message_of_tx hp] at hrun
    exact ⟨_, hrun.run, rfl, rfl, rfl, hrun.sent⟩

/-- A TRANSACT accepted with a frame queued, over cycles whose last but one sends the ninth byte: the accepting cycle, the
transmission, and the WAIT cycle that takes the frame, still at the head of the queue. -/
theorem transact_runsTo {s : State} {c : Byte} {d : Word32} {f : Frame} {q : List Frame} {i0 i9 iWait : Inputs}
    {l rest : List Inputs} (hl : Listed s (i0 :: (l ++ [i9] ++ [iWait])) rest) (hp : s.phase = .idle)
    (ho : s.opened = true) (hq : s.respq = f :: q) (hreq : i0.reqValid = true)
    (hdecode : decodeRequest (requestWord i0) = .transact c d) (hn : l.countP (·.txReady) = 8) (hr : i9.txReady = true) :
    ∃ t, RunsTo s (i0 :: (l ++ [i9] ++ [iWait])) rest (encodeFrame c d).toList t ∧ t.phase = .resp ∧
      t.rspStatus = .frame ∧ t.rspFrame = f := by
  obtain ⟨-, hi⟩ := hl.running
  have haccept := clockCycle_transact hp ho (hi ▸ hreq) (hi ▸ hdecode)
  have htx : (clockCycle s).phase = .tx := by rw [haccept]
  have hbytes : message (clockCycle s) = (encodeFrame c d).toList := by rw [message_of_tx htx, haccept]
  obtain ⟨t, hrun, htp, htx', htr, published, htq⟩ :=
    transmission_last_runsTo hl.tail.append_left (.inr htx) (by rw [haccept]) hr (by simp [hbytes, hn])
  have hlast := clockCycle_tx_last (htp.trans htx) htr (Fin.ext (htx'.trans hn))
  have hwait : (clockCycle t).phase = .wait := by rw [hlast]
  obtain ⟨q', hhead⟩ : ∃ q', (clockCycle t).respq = f :: q' := by simp [hlast, htq, haccept, hq]
  have hend := RunsTo.cons hl (hrun.concat (hl.rst iWait (by simp)))
  rw [sentByte_of_not_transmitting (by simp [hp]), sentByte_of_not_transmitting (by simp [hwait]), hbytes,
    List.nil_append, List.append_nil, clockCycle_wait_frame hwait hhead] at hend
  exact ⟨_, hend, rfl, rfl, rfl⟩

/-- Settles O56: with a ready sink the ten cycles after the acceptance are nine of TX and one of WAIT. -/
theorem transactReturnsTheOldestQueuedFrame : Obligations.TransactReturnsTheOldestQueuedFrame := by
  intro s c d f q i0 l rest hw hp ho hq henv hrst0 hreq hdecode hlen hl
  obtain ⟨l', iWait, rfl⟩ := (List.eq_nil_or_concat' l).resolve_left (by rintro rfl; simp at hlen)
  obtain ⟨l, i9, rfl⟩ := (List.eq_nil_or_concat' l').resolve_left (by rintro rfl; simp at hlen)
  have hlength : l.length = 8 := by simpa using hlen
  have hready : l.countP (·.txReady) = 8 := by
    rw [List.countP_eq_length.2 fun i hi => (hl i (by simp [hi])).2, hlength]
  have hlisted : Listed s (i0 :: (l ++ [i9] ++ [iWait])) rest :=
    ⟨hw, henv, List.forall_mem_cons.2 ⟨hrst0, fun i hi => (hl i hi).1⟩⟩
  obtain ⟨t, hrun, hphase, hstatus, hframe⟩ := transact_runsTo hlisted hp ho hq hreq hdecode hready (hl i9 (by simp)).2
  have heleven : (i0 :: (l ++ [i9] ++ [iWait])).length = 11 := by rw [List.length_cons, hlen]
  exact ⟨t, heleven ▸ hrun.run, hphase, hstatus, hframe, heleven ▸ hrun.sent⟩

/-! #### WAIT with no frame queued (R179, R180, R184) -/

theorem NoFrameThroughout.mono {m n : Nat} {s : State} (h : NoFrameThroughout n s) (hmn : m ≤ n) :
    NoFrameThroughout m s :=
  fun k hk => h k (hk.trans_le hmn)

/-- WAIT over any cycles without reset or queued frame whose ticks do not bring the count to TIMEOUT_TICKS: it counts them. -/
theorem wait_runsTo {s : State} {l rest : List Inputs} (hl : Listed s l rest) (hp : s.phase = .wait)
    (hno : NoFrameThroughout l.length s)
    (hn : s.params.timeoutTicks ≤ s.timer ∨ s.timer + l.countP (·.tick) < s.params.timeoutTicks) :
    ∃ t, RunsTo s l rest [] t ∧ t.phase = .wait ∧ t.timer = s.timer + l.countP (·.tick) := by
  induction l using List.reverseRecOn generalizing rest with
  | nil => exact ⟨s, hl.runsTo_nil, hp, rfl⟩
  | append_singleton l i ih =>
    simp only [List.countP_append, List.countP_singleton] at hn ⊢
    obtain ⟨t, hrun, htp, htt⟩ := ih hl.append_left (hno.mono (by simp)) (by omega)
    have hrst : i.rst = false := hl.rst i (by simp)
    obtain ⟨hrunning, hi⟩ := hrun.running hrst
    have htq : t.respq = [] := hno l.length (by simp) t hrun.run
    have hnext := hrun.concat hrst
    rw [sentByte_of_not_transmitting (by simp [htp]), List.append_nil] at hnext
    cases ht : i.tick with
    | false =>
      rw [clockCycle_wait_nothing htp htq (hi ▸ ht)] at hnext
      exact ⟨_, hnext, htp, htt⟩
    | true =>
      rw [if_pos ht] at hn
      rw [clockCycle_wait_tick htp htq (hi ▸ ht) (by rw [hrun.params]; omega)] at hnext
      exact ⟨_, hnext, htp, congrArg (· + 1) htt⟩

/-- The tick that makes the count TIMEOUT_TICKS completes with TIMEOUT. -/
theorem wait_timeout_run {s : State} {l rest : List Inputs} {i : Inputs} (hl : Listed s (l ++ [i]) rest)
    (hp : s.phase = .wait) (hno : NoFrameThroughout (l ++ [i]).length s) (ht : i.tick = true)
    (hn : s.timer + l.countP (·.tick) + 1 = s.params.timeoutTicks) :
    ∃ t, Host.Core.run core (l ++ [i]).length s = .next t ∧ t.phase = .resp ∧ t.rspStatus = .timeout ∧
      t.rspFrame = Frame.zero ∧ t.timer = 0 := by
  obtain ⟨t, hrun, htp, htt⟩ := wait_runsTo hl.append_left hp (hno.mono (by simp)) (by omega)
  have hrst : i.rst = false := hl.rst i (by simp)
  obtain ⟨-, hi⟩ := hrun.running hrst
  have htq : t.respq = [] := hno l.length (by simp) t hrun.run
  have hend := (hrun.concat hrst).run
  rw [clockCycle_wait_timeout htp htq (hi ▸ ht) (by rw [hrun.params, htt, hn])] at hend
  exact ⟨_, hend, rfl, rfl, rfl, rfl⟩

/-- Settles O36: a tick counts or ends the wait, and over a run WAIT counts its ticks. -/
theorem timeoutComesWithItsLastTick : Obligations.TimeoutComesWithItsLastTick := by
  simp only [Obligations.TimeoutComesWithItsLastTick, ← List.countP_eq_length_filter]
  refine ⟨fun s hrun hp hq ht => ?_, fun s l rest hw hp hno henv hrst => ⟨fun hn => ?_, ?_⟩⟩
  · rw [step_of_running s hrun]
    exact ⟨fun hx => by rw [clockCycle_wait_timeout hp hq ht hx], fun hx => by rw [clockCycle_wait_tick hp hq ht hx]⟩
  · obtain ⟨t, hrun, htp, htt⟩ := wait_runsTo ⟨hw, henv, hrst⟩ hp hno (.inr hn)
    exact ⟨t, hrun.run, htp, htt⟩
  · rintro pre last rfl ht hn
    exact wait_timeout_run ⟨hw, henv, hrst⟩ hp hno ht hn

/-- Settles O57: a stalled transmission sends nothing, and a WAIT without ticks counts none. -/
theorem stalledBlockWaitsForEver : Obligations.StalledBlockWaitsForEver := by
  refine ⟨fun s l rest hw hp henv hl => ?_, fun s l rest hw hp hno henv hl => ?_⟩
  · have hcount : l.countP (·.txReady) = 0 := by simpa [List.countP_eq_zero] using fun i hi => (hl i hi).2
    obtain ⟨t, hrun, htp, -, htx, htt, -⟩ :=
      transmission_runsTo ⟨hw, henv, fun i hi => (hl i hi).1⟩ hp (.inl hcount)
    rw [hcount] at hrun htx
    exact ⟨t, hrun.run, htp, Fin.ext htx, htt, hrun.sent⟩
  · have hcount : l.countP (·.tick) = 0 := by simpa [List.countP_eq_zero] using fun i hi => (hl i hi).2
    obtain ⟨t, hrun, htp, htt⟩ := wait_runsTo ⟨hw, henv, fun i hi => (hl i hi).1⟩ hp hno (by omega)
    exact ⟨t, hrun.run, htp, by rw [htt, hcount, Nat.add_zero]⟩

/-- With ticks every `p` cycles, the first after `first`, the ticks of the first `k` cycles are the numbers below `k` that leave
`first` modulo `p`. -/
theorem countP_tick_take_of_periodic {l : List Inputs} {p first : Nat}
    (ht : ∀ j (h : j < l.length), l[j].tick = true ↔ j % p = first) {k : Nat} (hk : k ≤ l.length) :
    (l.take k).countP (·.tick) = Nat.count (· % p = first) k := by
  induction k with
  | zero => simp
  | succ k ih =>
    have hlt : k < l.length := hk
    rw [← List.take_append_getElem hlt, List.countP_append, ih hlt.le, Nat.count_succ, List.countP_singleton]
    simp only [ht k hlt]

/-- Below `first + m * p` there are `m` numbers that leave `first < p` modulo `p`. -/
theorem count_mod_eq (p first m : Nat) (h : first < p) : Nat.count (· % p = first) (first + m * p) = m := by
  have hp : 0 < p := by omega
  have hcount := Nat.count_modEq_card (r := p) (b := first + m * p) hp first
  simpa [Nat.ModEq, Nat.mod_eq_of_lt h, Nat.add_mul_div_right _ _ hp, Nat.div_eq_of_lt h] using hcount

/-- So among the first `k` cycles, `k` at most `first + m * p`, there are `m` ticks at most. -/
theorem countP_tick_take_le_of_periodic {l : List Inputs} {p first m k : Nat} (hfirst : first < p)
    (ht : ∀ j (h : j < l.length), l[j].tick = true ↔ j % p = first) (hk : k ≤ l.length) (hm : k ≤ first + m * p) :
    (l.take k).countP (·.tick) ≤ m :=
  calc (l.take k).countP (·.tick)
    _ = Nat.count (· % p = first) k := countP_tick_take_of_periodic ht hk
    _ ≤ Nat.count (· % p = first) (first + m * p) := Nat.count_monotone _ hm
    _ = m := count_mod_eq p first m hfirst

/-- Settles O37: the ticks up to a cycle number TIMEOUT_TICKS - 1 at most, and the last cycle brings the deciding one. -/
theorem timeoutBounds : Obligations.TimeoutBounds := by
  intro s l rest p first hw hp htimer hno henv hrst hfirst hticks hlen ht
  obtain ⟨m, hm⟩ : ∃ m, s.params.timeoutTicks = m + 1 := ⟨s.params.timeoutTicks - 1, by omega⟩
  rw [hm, Nat.add_sub_cancel] at hlen ⊢
  have hall : (l.take (first + m * p)).countP (·.tick) = m := by
    rw [countP_tick_take_of_periodic ht (by omega), count_mod_eq p first m hfirst]
  refine ⟨⟨by omega, by rw [Nat.succ_mul]; omega, fun h1 => by subst h1; omega⟩, fun k hk => ?_, ?_⟩
  · have hle : (l.take k).countP (·.tick) ≤ m := countP_tick_take_le_of_periodic hfirst ht hk.le (by omega)
    have hlisted : Listed s (l.take k) (l.drop k ++ rest) :=
      Listed.append_left ⟨hw, by rw [List.take_append_drop, henv], by rwa [List.take_append_drop]⟩
    have hk' : (l.take k).length = k := by simp [hk.le]
    obtain ⟨t, hrun, htp, -⟩ := wait_runsTo hlisted hp (hno.mono (by omega)) (.inr (by omega))
    exact ⟨t, hk' ▸ hrun.run, htp⟩
  · have hlast : first + m * p < l.length := by omega
    have hsplit : l.take (first + m * p) ++ [l[first + m * p]] = l := by
      rw [List.take_append_getElem, ← hlen, List.take_length]
    have htick : l[first + m * p].tick = true := (ht _ hlast).2 (by simp [Nat.mod_eq_of_lt hfirst])
    obtain ⟨t, hrun, htp, hts, -, -⟩ :=
      wait_timeout_run (l := l.take (first + m * p)) (rest := rest) ⟨hw, by rw [hsplit, henv], by rwa [hsplit]⟩ hp
        (by rwa [hsplit]) htick (by omega)
    exact ⟨t, hsplit ▸ hrun, htp, hts⟩

/-! ### Completion (R185) -/

/-- Some state within `n` cycles from `s` offers a response. -/
def RespondsWithin (n : Nat) (s : State) : Prop :=
  ∃ k ≤ n, ∃ t, Host.Core.run core k s = .next t ∧ t.phase = .resp

theorem RespondsWithin.of_resp {s : State} (n : Nat) (hp : s.phase = .resp) : RespondsWithin n s :=
  ⟨0, n.zero_le, s, rfl, hp⟩

theorem RespondsWithin.of_clockCycle {n : Nat} {s : State} (hrun : Running s) (h : RespondsWithin n (clockCycle s)) :
    RespondsWithin (n + 1) s := by
  obtain ⟨k, hk, t, hrest, hp⟩ := h
  exact ⟨k + 1, Nat.succ_le_succ hk, t, (run_succ_of_step (step_of_running s hrun)).trans hrest, hp⟩

/-- WAIT ends within cycles that bring the ticks it lacks: with a frame, or with the deciding tick. -/
theorem wait_respondsWithin {s : State} {l rest : List Inputs} (hl : Listed s l rest) (hp : s.phase = .wait)
    (hlt : s.timer < s.params.timeoutTicks) (hn : s.params.timeoutTicks ≤ s.timer + l.countP (·.tick)) :
    RespondsWithin l.length s := by
  induction l generalizing s with
  | nil => exact absurd (hlt.trans_le hn) (Nat.lt_irrefl _)
  | cons i l ih =>
    obtain ⟨hrunning, hi⟩ := hl.running
    refine .of_clockCycle hrunning ?_
    cases hq : s.respq with
    | cons f q => exact .of_resp _ (by rw [clockCycle_wait_frame hp hq])
    | nil =>
      cases ht : i.tick with
      | false =>
        have hnext := clockCycle_wait_nothing hp hq (hi ▸ ht)
        exact ih hl.tail (by simpa [hnext] using hp) (by simpa [hnext] using hlt)
          (by simpa [hnext, ht] using hn)
      | true =>
        by_cases hx : s.timer + 1 = s.params.timeoutTicks
        · exact .of_resp _ (by rw [clockCycle_wait_timeout hp hq (hi ▸ ht) hx])
        · have hnext := clockCycle_wait_tick hp hq (hi ▸ ht) hx
          have hcount : (i :: l).countP (·.tick) = l.countP (·.tick) + 1 := List.countP_cons_of_pos ht
          exact ih hl.tail (by simpa [hnext] using hp) (by simp [hnext]; omega) (by simp [hnext]; omega)

/-- A transmission ends within cycles that bring the ready sinks it lacks, and with the ticks after them its operation ends. -/
theorem transmission_respondsWithin {s : State} {l ticks rest : List Inputs} (hl : Listed s (l ++ ticks) rest)
    (hp : s.phase = .hs ∨ s.phase = .tx) (hlt : s.txidx.val < (message s).length)
    (hn : (message s).length ≤ s.txidx.val + l.countP (·.txReady)) (htimeout : 1 ≤ s.params.timeoutTicks)
    (hticks : s.params.timeoutTicks ≤ ticks.countP (·.tick)) : RespondsWithin (l ++ ticks).length s := by
  induction l generalizing s with
  | nil => exact absurd (hlt.trans_le hn) (Nat.lt_irrefl _)
  | cons i l ih =>
    obtain ⟨hrunning, hi⟩ := hl.running
    have hrest : Listed (clockCycle s) (l ++ ticks) rest := hl.tail
    refine .of_clockCycle hrunning ?_
    cases hr : i.txReady with
    | false =>
      have hnext := clockCycle_transmit_stall hp (hi ▸ hr)
      have hmsg : message (clockCycle s) = message s := by rw [hnext]; rfl
      have hcount : (i :: l).countP (·.txReady) = l.countP (·.txReady) := List.countP_cons_of_neg (by simp [hr])
      exact ih hrest (by simpa [hnext] using hp) (by rw [hmsg, hnext]; exact hlt)
        (by rw [hmsg, hnext, ← hcount]; exact hn) htimeout hticks
    | true =>
      have hcount : (i :: l).countP (·.txReady) = l.countP (·.txReady) + 1 := List.countP_cons_of_pos hr
      by_cases hx : s.txidx.val + 1 < (message s).length
      · have hnext := clockCycle_transmit_next hp (hi ▸ hr) hx
        have hmsg : message (clockCycle s) = message s := by rw [hnext]; rfl
        have ⟨_, hle⟩ := message_length s
        have hidx : (clockCycle s).txidx.val = s.txidx.val + 1 := by rw [hnext]; exact val_txidx_succ (by omega)
        exact ih hrest (by simpa [hnext] using hp) (by rw [hmsg]; omega) (by rw [hmsg]; omega) htimeout hticks
      · obtain hp | hp := hp
        · have hlast : s.txidx = 2 := Fin.ext (by simp [message_of_hs hp] at hx hlt; omega)
          exact .of_resp _ (by rw [clockCycle_hs_last hp (hi ▸ hr) hlast])
        · have hlast : s.txidx = 8 := Fin.ext (by simp [message_of_tx hp] at hx hlt; omega)
          have hnext := clockCycle_tx_last hp (hi ▸ hr) hlast
          refine wait_respondsWithin hrest (by rw [hnext]) (by rw [hnext]; exact htimeout) ?_
          simp [hnext]
          omega

/-- Settles O58: acceptance completes or begins a transmission, which ends within nine ready cycles, and its WAIT within the ticks
after them. -/
theorem acceptedOperationsComplete : Obligations.AcceptedOperationsComplete := by
  simp only [Obligations.AcceptedOperationsComplete, ← List.countP_eq_length_filter]
  intro s i0 l1 l2 rest hw hp htimeout henv hrst hreq hready hticks
  have hl : Listed s (i0 :: (l1 ++ l2)) rest := ⟨hw, henv, hrst⟩
  obtain ⟨hrunning, hi⟩ := hl.running
  have hlength : 1 + l1.length + l2.length = (l1 ++ l2).length + 1 := by simp; omega
  suffices h : RespondsWithin (l1 ++ l2).length (clockCycle s) from hlength ▸ h.of_clockCycle hrunning
  obtain hresp | ⟨htransmits, hx⟩ := (ctl_row s (inputOf s)).resp_or_transmits_of_accepted hp (hi ▸ hreq)
  · exact .of_resp _ hresp
  · have hx' : (clockCycle s).txidx.val = 0 := congrArg Fin.val hx
    have ⟨hpos, hle⟩ := message_length (clockCycle s)
    exact transmission_respondsWithin hl.tail htransmits (by omega) (by omega) htimeout hticks

end Sys2Proof.Machine

/-! ### Capacities (43_cycle.md rule R223) -/

namespace Sys2Proof.Machine

section Cycle
variable (s : State)

/-- RX appends a byte only where `rxbuf` has room (R141). -/
theorem within_rxbuf_append (offer : Option Byte) (h : Within s.params.rxbufDepth s.rxbuf.length) :
    Within s.params.rxbufDepth (s.rxbuf.length + (rxAppend s offer).length) := by
  cases offer with
  | none => simpa [rxAppend] using h
  | some b =>
    rw [rxAppend_some]
    split
    · rename_i hroom
      exact within_succ_of_hasRoom (Bool.and_eq_true_iff.1 hroom).2
    · exact h

/-- The scan publishes a frame only where `respq` has room (R144). -/
theorem within_respq_publish (h : Within s.params.respqDepth s.respq.length) :
    Within s.params.respqDepth (s.respq.length + (readerScan s).publish.toList.length) := by
  cases hpub : (readerScan s).publish with
  | none => exact h
  | some f => exact within_succ_of_hasRoom (readerScan_publish_room s f hpub)

/-- No cycle overfills a queue, whatever the transactor does in it: the scan, the pop and `clear` only make room. -/
theorem capacityInv_cycleWith (c : Ctl) (h : CapacityInv s) : CapacityInv (cycleWith s c) := by
  obtain ⟨hrx, hq⟩ := h
  have hscan : (readerScan s).rxbuf.length ≤ s.rxbuf.length := readerScan_length_le s
  refine ⟨(within_rxbuf_append s (rxOffer (inputOf s)) hrx).mono ?_, (within_respq_publish s hq).mono ?_⟩
  · cases hclear : c.clear <;> simp [cycleWith, hclear, hscan]
  · cases hclear : c.clear <;> cases hpop : c.pop <;> simp [cycleWith, hclear, hpop]

end Cycle

/-- Settles O47: a reset edge empties both queues, and no clock cycle overfills one. -/
theorem capacityIsNeverExceeded : Obligations.CapacityIsNeverExceeded := by
  intro s t hrx hq hstep
  obtain ⟨-, rfl⟩ | ⟨-, rfl⟩ := step_cases hstep
  · exact ⟨fun d _ => Nat.zero_le d, fun d _ => Nat.zero_le d⟩
  · exact capacityInv_cycleWith s _ ⟨hrx, hq⟩

end Sys2Proof.Machine

/-! ### The invariants, kept by every step (10_state.md rule R29, 43_cycle.md rule R224) -/

namespace Sys2Proof.Machine

section Cycle
variable (s : State) (c : Ctl)

@[simp] theorem cycleWith_opened : (cycleWith s c).opened = c.opened := rfl
@[simp] theorem cycleWith_phase : (cycleWith s c).phase = c.phase := rfl
@[simp] theorem cycleWith_txidx : (cycleWith s c).txidx = c.txidx := rfl

/-- A published frame decodes back: the scan read it from its own wire bytes (R143). -/
theorem decodeFrame_wireBytes_of_publish {f : Frame} (h : (readerScan s).publish = some f) :
    decodeFrame s.params.checkMagic (wireBytes f) = .ok f := by
  have row := readerScan_row s
  generalize readerScan s = sc at h row
  cases row with
  | publish _ _ g hd =>
    cases h
    exact decodeFrame_wireBytes (wireBytes_of_decodeFrame hd).2
  | closed | short | hold | drop => cases h

/-- A frame queued after a cycle was queued before it, or was published in it. -/
theorem mem_respq_cycleWith {f : Frame} (h : f ∈ (cycleWith s c).respq) :
    f ∈ s.respq ∨ (readerScan s).publish = some f := by
  rw [cycleWith, edge_respq] at h
  split at h
  · cases h
  · obtain hold | hpub := List.mem_append.1 h
    · split at hold
      · exact .inl (List.mem_of_mem_drop hold)
      · exact .inl hold
    · exact .inr (Option.mem_toList.1 hpub)

/-- Every queued frame still decodes back (R29.7). -/
theorem queueInv_cycleWith (h : QueueInv s) : QueueInv (cycleWith s c) := fun f hf =>
  (mem_respq_cycleWith s c hf).elim (h f) (decodeFrame_wireBytes_of_publish s)

end Cycle

section Zero
variable {s : State}

theorem txidxInv_of_zero (hx : s.txidx.val = 0) : TxidxInv s := by simp [TxidxInv, hx]

theorem timerInv_of_zero (hticks : 0 < s.params.timeoutTicks) (ht : s.timer = 0) : TimerInv s :=
  ⟨ht ▸ hticks, fun _ => ht⟩

end Zero

section Rows
variable {s : State} {inp : Inputs} {c : Ctl}

/-- HS and TX are entered by acceptances that leave the transport open, and no row closes it in HS, TX or WAIT (R29.3). -/
theorem CtlRow.keeps_activeInv (row : CtlRow s inp c) (h : ActiveInv s) : ActiveInv (cycleWith s c) := by
  cases row with
  | transact _ _ _ _ _ ho => exact fun _ => ho
  | openClosed => exact fun _ => rfl
  | hsStall hp | hsNext hp | txStall hp | txLast hp | txNext hp | waitTick hp | waitNothing hp =>
    exact fun _ => h (by simp [hp])
  | idle hp | respHeld hp => simp [ActiveInv, hp]
  | transactClosed | pollClosed | pollFrame | pollEmpty | openIllegal | closeOpen | closeClosed | hsLast | waitFrame
  | waitTimeout | respTaken => simp [ActiveInv]

/-- A row that leaves the transport closed clears the queues, as CLOSE does, or found the transport closed. -/
theorem CtlRow.clear_or_closed (row : CtlRow s inp c) (hclosed : c.opened = false) : c.clear = true ∨ s.opened = false := by
  cases row with
  | closeOpen => exact .inl rfl
  | openClosed => cases hclosed
  | idle | transact | transactClosed | pollClosed | pollFrame | pollEmpty | openIllegal | closeClosed | hsStall | hsLast
  | hsNext | txStall | txLast | txNext | waitFrame | waitTimeout | waitTick | waitNothing | respTaken | respHeld =>
    exact .inr hclosed

/-- Closed, the queues are empty, since CLOSE clears them and a closed block adds nothing to them; and the phase is IDLE or RESP,
the others being open (R29.2). -/
theorem CtlRow.keeps_closedInv (row : CtlRow s inp c) (h : ClosedInv s) (hactive : ActiveInv (cycleWith s c)) :
    ClosedInv (cycleWith s c) := by
  intro hclosed
  have hphase : c.phase = .idle ∨ c.phase = .resp := by
    cases hp : c.phase with
    | idle => exact .inl rfl
    | resp => exact .inr rfl
    | hs | tx | wait => cases (hactive (by simp [hp])).symm.trans hclosed
  obtain hclear | ho := row.clear_or_closed hclosed
  · simp [cycleWith, hclear, hphase]
  · obtain ⟨hrx, hq, -⟩ := h ho
    simp [cycleWith, readerScan_of_closed s ho, scanNothing, rxAppend_closed s _ ho, hrx, hq, hphase]

/-- `txidx` counts within HS and TX, and is 0 where they begin and end (R29.4). -/
theorem CtlRow.keeps_txidxInv (row : CtlRow s inp c) (h : TxidxInv s) : TxidxInv (cycleWith s c) := by
  have ⟨hhs, htx, hzero⟩ := h
  cases row with
  | idle | hsStall | txStall | waitTick | waitNothing | respHeld => exact h
  | transact | openClosed | hsLast | txLast => exact txidxInv_of_zero rfl
  | transactClosed hp | pollClosed hp | pollFrame hp | pollEmpty hp | openIllegal hp | closeOpen hp | closeClosed hp
  | waitFrame hp | waitTimeout hp | respTaken hp => exact txidxInv_of_zero (hzero (by simp [hp]) (by simp [hp]))
  | hsNext hp _ hx =>
    have hle : s.txidx.val ≤ 2 := hhs hp
    have hne : s.txidx.val ≠ 2 := fun h2 => hx (Fin.ext h2)
    have hnext : (s.txidx + 1).val ≤ 2 := by rw [val_txidx_succ (by omega)]; omega
    simp [TxidxInv, hp, hnext]
  | txNext hp =>
    have hnext : (s.txidx + 1).val ≤ 8 := Nat.le_of_lt_succ (s.txidx + 1).isLt
    simp [TxidxInv, hp, hnext]

/-- `timer` counts only in WAIT, short of TIMEOUT_TICKS, and is 0 where WAIT begins and ends (R29.5). -/
theorem CtlRow.keeps_timerInv (row : CtlRow s inp c) (h : TimerInv s) : TimerInv (cycleWith s c) := by
  have ⟨hlt, hzero⟩ := h
  have hticks : 0 < s.params.timeoutTicks := by omega
  cases row with
  | idle | hsStall | hsNext | txStall | txNext | waitNothing | respHeld => exact h
  | txLast | waitFrame | waitTimeout => exact timerInv_of_zero hticks rfl
  | transact hp | transactClosed hp | pollClosed hp | pollFrame hp | pollEmpty hp | openClosed hp | openIllegal hp
  | closeOpen hp | closeClosed hp | hsLast hp | respTaken hp => exact timerInv_of_zero hticks (hzero (by simp [hp]))
  | waitTick hp _ _ hx => exact ⟨Nat.lt_of_le_of_ne hlt hx, fun hne => absurd hp hne⟩

/-- A row that writes the response registers writes FRAME or the zero frame (R29.6). -/
theorem CtlRow.keeps_responseInv (row : CtlRow s inp c) (h : ResponseInv s) : ResponseInv (cycleWith s c) := by
  cases row with
  | idle | transact | openClosed | hsStall | hsNext | txStall | txLast | txNext | waitTick | waitNothing | respTaken
  | respHeld => exact h
  | pollFrame | waitFrame => exact .inl rfl
  | transactClosed | pollClosed | pollEmpty | openIllegal | closeOpen | closeClosed | hsLast | waitTimeout =>
    exact .inr rfl

/-- A cycle in which the transactor does a row of the table of R222 keeps the invariants. -/
theorem CtlRow.keeps_inv (row : CtlRow s inp c) (h : Inv s) : Inv (cycleWith s c) := by
  obtain ⟨hlegal, hcap, hclosed, hactive, htxidx, htimer, hresponse, hqueue⟩ := h
  have hactive' : ActiveInv (cycleWith s c) := row.keeps_activeInv hactive
  exact ⟨hlegal, capacityInv_cycleWith s c hcap, row.keeps_closedInv hclosed hactive', hactive',
    row.keeps_txidxInv htxidx, row.keeps_timerInv htimer, row.keeps_responseInv hresponse, queueInv_cycleWith s c hqueue⟩

end Rows

/-- Every step keeps the invariants: a reset edge gives a reset state of the same parameters, and a clock cycle is a row. -/
theorem step_inv {s t : State} (h : Inv s) (hstep : step s = .next t) : Inv t := by
  have ⟨hlegal, _⟩ := h
  obtain ⟨-, rfl⟩ | ⟨-, rfl⟩ := step_cases hstep
  · exact inv_resetWith s.params _ _ hlegal
  · exact (ctl_row s (inputOf s)).keeps_inv h

/-- Settles O45: the reset state's invariants, and a step's. -/
theorem everyStepKeepsTheInvariants : Obligations.EveryStepKeepsTheInvariants :=
  ⟨inv_resetWith, fun _ _ => step_inv⟩

/-- A block that has been reset has a next state, and stays reset (R220). -/
theorem exists_step_of_wasReset {s : State} (h : s.wasReset = true) : ∃ t, step s = .next t ∧ t.wasReset = true := by
  cases hrst : (inputOf s).rst with
  | true => exact ⟨resetEdge s, step_of_rst s hrst, rfl⟩
  | false => exact ⟨clockCycle s, step_of_running s ⟨hrst, h⟩, h⟩

/-- Settles O46, by induction on the cycles from any state that meets the invariants in a block that has been reset. -/
theorem runsFromResetGoOnUnderTheInvariants : Obligations.RunsFromResetGoOnUnderTheInvariants := by
  suffices hrun : ∀ (n : Nat) (s : State), Inv s → s.wasReset = true →
      ∃ t, Host.Core.run core n s = .next t ∧ Inv t ∧ t.params = s.params ∧ t.wasReset = true from
    fun p env n hp => hrun n _ (inv_resetWith p env 0 hp) rfl
  intro n
  induction n with
  | zero => exact fun s hinv hw => ⟨s, rfl, hinv, rfl, hw⟩
  | succ n ih =>
    intro s hinv hw
    obtain ⟨u, hstep, hwu⟩ := exists_step_of_wasReset hw
    obtain ⟨t, hrest, hinvt, hparams, hwt⟩ := ih u (step_inv hinv hstep) hwu
    exact ⟨t, (run_succ_of_step hstep).trans hrest, hinvt, hparams.trans (step_params hstep), hwt⟩

end Sys2Proof.Machine

/-! ### One clock cycle in full, and what it depends on (43_cycle.md rules R221, R222, R226) -/

namespace Sys2Proof.Machine

section Cycle
variable (s : State)

/-- What `rxbuf` gains in a cycle is the byte offered, if it is transferred while the transport is open (R142). -/
theorem rxAppend_rxOffer (inp : Inputs) :
    rxAppend s (rxOffer inp) = if inp.rxValid && rxReady s && s.opened then [inp.rxByte] else [] := by
  cases hv : inp.rxValid <;> simp [rxAppend, rxOffer, hv]

/-- The quiet cycle as one record: the reader's part, all else unchanged (R221). -/
theorem quietCycle_eq :
    quietCycle s =
      { s with rxbuf := (readerScan s).rxbuf ++ rxAppend s (rxOffer (inputOf s)),
               respq := s.respq ++ (readerScan s).publish.toList, env := s.env.tail, cycle := s.cycle + 1 } := by
  simp [quietCycle, edge_eq]

/-- At rest the reader has no step left to take: too few bytes, or a hold (R226). -/
theorem readerScan_of_atRest (h : AtRest s) : readerScan s = scanNothing s := by
  obtain ⟨-, hshort | ⟨⟨f, hf⟩, hfull⟩⟩ := h
  · simp [readerScan, hshort]
  · simp [readerScan, hf, scanFrame, hfull]

end Cycle

/-- Settles O22: the transactor keeps its fields; a closed block's reader and RX leave both queues alone. -/
theorem quietCycleIsTheReaderAlone : Obligations.QuietCycleIsTheReaderAlone :=
  fun s => ⟨quietCycle_eq s, fun ho => by simp [quietCycle_of_closed s ho]⟩

/-- Settles O21: the reset edge, and the clock edge with the scan's rows and the byte transferred on RX written out. -/
theorem stepComposesReaderTransactorAndQueues : Obligations.StepComposesReaderTransactorAndQueues := by
  intro s hw
  refine ⟨step_of_rst s, fun hrst => ?_⟩
  intro inp rxFire scanned c
  have hscanned : scanned = ((readerScan s).rxbuf, (readerScan s).publish) := by
    have row := readerScan_row s
    generalize readerScan s = sc at row ⊢
    cases row with
    | closed ho => simp [scanned, ho]
    | short ho hl => simp [scanned, ho, hl]
    | publish ho hl f hd hr => simp [scanned, ho, hl, hd, hr]
    | hold ho hl f hd hr => simp [scanned, ho, hl, hd, hr]
    | drop ho hl e hd => simp [scanned, ho, hl, hd]
  have hbyte : rxAppend s (rxOffer inp) = if rxFire && s.opened then [inp.rxByte] else [] := rxAppend_rxOffer s inp
  rw [step_of_running s ⟨hrst, hw⟩, clockCycle, edge_eq, hscanned, ← hbyte]

/-- Settles O43: the transactor is idle, the reader has no step left, and no byte is offered. -/
theorem blockAtRestStaysAtRest : Obligations.BlockAtRestStaysAtRest := by
  intro s hrun hrest hreq hrx
  have ⟨hidle, _⟩ := hrest
  rw [step_of_running s hrun, clockCycle_idle hidle hreq, quietCycle_eq, readerScan_of_atRest s hrest, rxAppend_rxOffer]
  simp [hrx, scanNothing]

/-! #### Inputs a phase does not read -/

section Inputs
variable (s : State) {i j : Inputs}

/-- A phase step reads the sink in HS and TX, the tick in WAIT and the host's `rsp_ready` in RESP, and no other input. -/
theorem ctlPhase_congr (htx : s.phase = .hs ∨ s.phase = .tx → i.txReady = j.txReady)
    (htick : s.phase = .wait → i.tick = j.tick) (hrsp : s.phase = .resp → i.rspReady = j.rspReady) :
    ctlPhase s i = ctlPhase s j := by
  cases hp : s.phase with
  | idle => simp [ctlPhase, hp]
  | hs => simp [ctlPhase, hp, ctlHs, txFire, htx (.inl hp)]
  | tx => simp [ctlPhase, hp, ctlTx, txFire, htx (.inr hp)]
  | wait => simp [ctlPhase, hp, ctlWait, htick hp]
  | resp => simp [ctlPhase, hp, ctlResp, rspFire, hrsp hp]

/-- Besides its phase step the transactor reads the request port, and that in IDLE only (R170). -/
theorem ctl_congr
    (hreq : s.phase = .idle →
      i.reqValid = j.reqValid ∧ i.reqOp = j.reqOp ∧ i.reqCommand = j.reqCommand ∧ i.reqData = j.reqData)
    (hphase : ctlPhase s i = ctlPhase s j) : ctl s i = ctl s j := by
  by_cases hp : s.phase = .idle
  · obtain ⟨hvalid, hop, hcommand, hdata⟩ := hreq hp
    have hword : requestWord i = requestWord j := by simp [requestWord, hop, hcommand, hdata]
    have haccept : acceptOp s i (decodeRequest (requestWord j)) = acceptOp s j (decodeRequest (requestWord j)) := by
      rcases decodeRequest_cases (requestWord j) with hd | hd | hd | hd <;> simp [hd, acceptOp]
    simp [ctl, reqFire, hvalid, hword, haccept, hphase]
  · rw [ctl_of_busy s i hp, ctl_of_busy s j hp, hphase]

end Inputs

/-- The step of a block whose environment lists `inp` first, as a function of `inp`: reset reads `rst` alone (R271), and a running
cycle reads RX and what the transactor reads. -/
theorem step_env_cons (s : State) (inp : Inputs) (rest : List Inputs) :
    step { s with env := inp :: rest } =
      if inp.rst then .next (State.resetWith s.params rest (s.cycle + 1))
      else if s.wasReset then .next { edge s (rxOffer inp) (readerScan s) (ctl s inp) with env := rest }
      else .fault .unreset := by
  by_cases hrst : inp.rst = true
  · rw [if_pos hrst]
    exact step_of_rst { s with env := inp :: rest } hrst
  · have hrun : inp.rst = false := Bool.eq_false_iff.2 hrst
    rw [if_neg hrst]
    by_cases hw : s.wasReset = true
    · rw [if_pos hw]
      exact step_of_running { s with env := inp :: rest } ⟨hrun, hw⟩
    · rw [if_neg hw]
      exact step_of_unreset { s with env := inp :: rest } hrun (Bool.eq_false_iff.2 hw)

/-- Settles O42: the step is a function of `rst`, RX and the transactor's step, on which the two inputs agree. -/
theorem inputsUnnamedForAPhaseHaveNoEffect : Obligations.InputsUnnamedForAPhaseHaveNoEffect := by
  intro s i j rest hrst hvalid hbyte hreq htx htick hrsp
  have hctl : ctl s i = ctl s j := ctl_congr s hreq (ctlPhase_congr s htx htick hrsp)
  have hoffer : rxOffer i = rxOffer j := by rw [rxOffer, rxOffer, hvalid, hbyte]
  rw [step_env_cons, step_env_cons, hrst, hctl, hoffer]

/-! #### The instructions a cycle meets -/

section Met
variable {s : State}

theorem mem_met_of_request (hv : (inputOf s).reqValid = true) (hp : s.phase = .idle) :
    decodeRequest (requestWord (inputOf s)) ∈ met s := by
  simp [met, metRequest, reqFire, hv, (reqReady_iff s).2 hp]

theorem mem_met_of_hs (hp : s.phase = .hs) : .handshake ∈ met s := by simp [met, metHandshake, hp]

/-- The reader's window decodes only when it is full. -/
theorem mem_met_of_decodeFrame {f : Frame} (ho : s.opened = true)
    (hd : decodeFrame s.params.checkMagic (s.rxbuf.take 9) = .ok f) : .frame f ∈ met s := by
  have hlen : 9 ≤ s.rxbuf.length := by simpa using decodeFrame_ok_length hd
  simp [met, metFrame, window, ho, hlen, decode_frame_eq_ok_iff.2 ⟨f, rfl, hd⟩]

theorem mem_met_of_decodeCommand {b : Byte} {i : Instr} (hoffer : rxOffer (inputOf s) = some b)
    (hd : decodeCommand b = some i) : i ∈ met s := by
  simp [met, metCommand, hoffer, decode_command_eq_ok_iff.2 hd]

/-- A row encoded as a command byte is one of the three the byte decodes to (R85, R87). -/
theorem decodeCommand_of_encode {i : Instr} {b : Byte} (h : encode i = .command b) : decodeCommand b = some i := by
  cases i with
  | cmdOk | cmdGetState | cmdError => cases h; rfl
  | transact | poll | openPort | closePort | frame | handshake => cases h

theorem exec_handshake_of_not_hs (hp : s.phase ≠ .hs) : exec .handshake s = .next (clockCycle s) := by
  simp [exec, execHandshake, clockCycle, hp]

end Met

/-- Settles O20: every instruction met runs as the plain cycle, which is the step of a running block. -/
theorem stepRunsEveryInstructionItMeets : Obligations.StepRunsEveryInstructionItMeets := by
  refine ⟨fun s i hrst hw hi => ?_, fun s hrst hw _ => step_of_running s ⟨hrst, hw⟩, fun _ => mem_met_of_request,
    fun _ => mem_met_of_hs, fun _ _ => mem_met_of_decodeFrame, fun s i b hv hb hi => ?_,
    fun _ => exec_handshake_of_not_hs⟩
  · rw [step_of_running s ⟨hrst, hw⟩, exec_of_met s i hi]
  · exact mem_met_of_decodeCommand (by simp [rxOffer, hv, hb]) (decodeCommand_of_encode hi)

end Sys2Proof.Machine

/-! ### Simultaneous events (60_exceptions.md rule R246) -/

namespace Sys2Proof.Machine

section Cycle
variable {s : State}

/-- The scan step of a window that decodes while `respq` has room (R143). -/
theorem readerScan_of_decodeFrame_ok {f : Frame} (ho : s.opened = true)
    (hd : decodeFrame s.params.checkMagic (s.rxbuf.take 9) = .ok f)
    (hr : hasRoom s.params.respqDepth s.respq.length = true) :
    readerScan s = { rxbuf := s.rxbuf.drop 9, publish := some f } := by
  have hlen : 9 ≤ s.rxbuf.length := by simpa using decodeFrame_ok_length hd
  simp [readerScan, window, ho, hlen, hd, scanFrame, hr]

/-- A running block's step is the run of any instruction it meets. -/
theorem step_eq_exec_of_met {i : Instr} (hrun : Running s) (hi : i ∈ met s) : step s = exec i s := by
  rw [step_of_running s hrun, exec_of_met s i hi]

end Cycle

/-- Settles O41: WAIT reads the queue before the tick and before the cycle's publish, and CLOSE's acceptance empties both queues. -/
theorem priorityOfSimultaneousEvents : Obligations.PriorityOfSimultaneousEvents := by
  obtain ⟨timeoutStep, -⟩ := timeoutComesWithItsLastTick
  refine ⟨step_of_rst, fun s f q hrun hp hq _ _ => ?frameBeatsTick,
    fun s f hrun hp hq ht hx ho hd hroom => ?publishNotSeen, fun s hrun hp ho hv hi => ?clearBeatsAll,
    fun s f g q hrun hp hq ho hd hroom => ?popAndPublish⟩
  case frameBeatsTick => exact ⟨_, waitTakesTheOldestFrame s f q hrun hp hq, rfl, rfl, rfl⟩
  case publishNotSeen =>
    have hscan := readerScan_of_decodeFrame_ok ho hd (by simpa [hq] using hroom)
    exact ⟨_, (timeoutStep s hrun hp hq ht).1 hx, rfl, rfl, by simp [hq, hscan]⟩
  case clearBeatsAll =>
    have hclose : .closePort ∈ met s := hi ▸ mem_met_of_request hv hp
    exact ⟨_, (step_eq_exec_of_met hrun hclose).trans ((closeAccepted s hp).1 ho), rfl, rfl, rfl⟩
  case popAndPublish =>
    have hscan := readerScan_of_decodeFrame_ok ho hd hroom
    exact ⟨_, waitTakesTheOldestFrame s f q hrun hp hq, rfl, by simp [hscan]⟩

end Sys2Proof.Machine

/-! ### Reset cycles and the block never reset (70_reset_and_hazards.md section 1) -/

namespace Sys2Proof.Machine

section ResetCycle
variable {s s' : State}

/-- What a reset edge reads of the state: the parameters, the environment still to come and the cycle count (R270, R36). -/
theorem resetEdge_congr (hp : s.params = s'.params) (he : s.env.tail = s'.env.tail) (hc : s.cycle = s'.cycle) :
    resetEdge s = resetEdge s' := by
  simp only [resetEdge, hp, he, hc]

/-! #### No transfer in a cycle with rst = 1 (R271) -/

theorem sentByte_of_rst (hrst : (inputOf s).rst = true) : sentByte s = [] := by simp [sentByte, hrst]

theorem receivedByte_of_rst (hrst : (inputOf s).rst = true) : receivedByte s = [] := by simp [receivedByte, hrst]

theorem publishedFrame_of_rst (hrst : (inputOf s).rst = true) : publishedFrame s = [] := if_pos hrst

theorem takenFrame_of_rst (hrst : (inputOf s).rst = true) : takenFrame s = [] := if_pos hrst

end ResetCycle

/-- Settles O18: both steps are reset edges, which agree on what they read, and each kind of transfer needs rst = 0. -/
theorem resetCycleIgnoresEverythingElse : Obligations.ResetCycleIgnoresEverythingElse := by
  intro s s' hrst hrst' hp he hc
  have hstep : step s = step s' := by rw [step_of_rst s hrst, step_of_rst s' hrst', resetEdge_congr hp he hc]
  exact ⟨hstep, ⟨resetEdge s, step_of_rst s hrst, resetEdge_params s, resetEdge_wasReset s⟩, sentByte_of_rst hrst,
    receivedByte_of_rst hrst, publishedFrame_of_rst hrst, takenFrame_of_rst hrst⟩

/-- No instruction's meaning stops the machine: each is a clock cycle (R248). -/
theorem exists_exec_eq_next (i : Instr) (s : State) : ∃ t, exec i s = .next t := by
  cases i with
  | transact | poll | openPort | closePort => exact ⟨_, exec_of_request s rfl⟩
  | frame | handshake => exact ⟨_, rfl⟩
  | cmdOk | cmdGetState | cmdError => exact ⟨_, exec_of_decodeCommand (decodeCommand_of_encode rfl) s⟩

/-- A step goes on, or it is the one stop of the machine: a cycle with rst = 0 in a block never reset (R38, R272). -/
theorem step_eq_next_or_unreset (s : State) :
    (∃ t, step s = .next t) ∨ (s.wasReset = false ∧ (inputOf s).rst = false ∧ step s = .fault .unreset) := by
  cases hw : s.wasReset with
  | true =>
    obtain ⟨t, ht, -⟩ := exists_step_of_wasReset hw
    exact .inl ⟨t, ht⟩
  | false =>
    cases hrst : (inputOf s).rst with
    | true => exact .inl ⟨_, step_of_rst s hrst⟩
    | false => exact .inr ⟨rfl, rfl, step_of_unreset s hrst hw⟩

/-- Settles O19: every step but that of a block never reset goes on, and so does every instruction's meaning. -/
theorem onlyTheUnresetBlockIsStuck : Obligations.OnlyTheUnresetBlockIsStuck := by
  refine ⟨fun s => ⟨fun hfault => ?_, fun ⟨hw, hrst⟩ => step_of_unreset s hrst hw⟩, fun s r hrefused => ?_,
    exists_exec_eq_next⟩
  · obtain ⟨t, hnext⟩ | ⟨hw, hrst, -⟩ := step_eq_next_or_unreset s
    · cases hnext.symm.trans hfault
    · exact ⟨hw, hrst⟩
  · obtain ⟨t, hnext⟩ | ⟨-, -, hfault⟩ := step_eq_next_or_unreset s
    · cases hnext.symm.trans hrefused
    · cases hfault.symm.trans hrefused

end Sys2Proof.Machine
